-- ==== Sys2Proof/Word.lean ====
section
/-! DEFINITION. The machine words of FXLED: the widths the register window and the records use. -/

namespace Sys2Proof

/-- 8 bits: opcodes, zone ids, calibration bytes and 8-bit gamma samples. -/
abbrev Byte := BitVec 8

/-- 16 bits: one RGB channel (R13). -/
abbrev Half := BitVec 16

/-- 32 bits: one register of the window (R51), a command word (R70), a record field (R29, R34). -/
abbrev Word := BitVec 32

/-- 64 bits: an operand or result register (R21, R22). -/
abbrev DWord := BitVec 64

end Sys2Proof
end

