-- ==== Sys2Proof/Syntax.lean ====
section
/-! DEFINITION. The commands of FXLED as data: one constructor of `Instr` for each row of the opcode map
(R80), with the fields its format carries (R72, R73, R75). -/

namespace Sys2Proof

/-- The S field of format FX (R75, R76). -/
inductive Signedness where
  | unsigned
  | signed
  deriving DecidableEq, Repr

/-- The operand widths N of R77. Code 3 of the W field is reserved and stands for none of them. -/
inductive Width where
  | w16
  | w32
  | w64
  deriving DecidableEq, Repr

/-- N, in bits (R77). -/
def Width.bits : Width → Nat
  | .w16 => 16
  | .w32 => 32
  | .w64 => 64

/-- The rounding modes of R78. Code 3 of the RM field is reserved and stands for none of them. -/
inductive Rounding where
  /-- RD: floor. -/
  | rd
  /-- RU: ceiling. -/
  | ru
  /-- RN: to nearest, ties toward plus infinity. -/
  | rn
  deriving DecidableEq, Repr

/-- A command. Register operands are implicit in the opcode (R85); the arguments are the fields of the
command word. -/
inductive Instr where
  /-- INIT, format N (R260). -/
  | init
  /-- SAT, format FX (R102). -/
  | sat (sg : Signedness) (w : Width)
  /-- SHR, format FX; `sh` is the FA field (R103). -/
  | shr (sg : Signedness) (w : Width) (rm : Rounding) (sh : BitVec 6)
  /-- MUL, format FX (R104). -/
  | mul (sg : Signedness) (w : Width) (rm : Rounding) (fa fb fr : BitVec 6)
  /-- DIV, format FX (R105). -/
  | div (sg : Signedness) (w : Width) (rm : Rounding) (fa fb fr : BitVec 6)
  /-- GAM8, format N (R130). -/
  | gam8
  /-- GAM16, format N (R135). -/
  | gam16
  /-- GAMRGB, format N (R136). -/
  | gamrgb
  /-- RGB2HSV, format N (R150). -/
  | rgb2hsv
  /-- HSV2RGB, format N (R157). -/
  | hsv2rgb
  /-- CALBOOST, format N (R180). -/
  | calboost
  /-- CCRESET, format Z (R201). -/
  | ccreset (z : Byte)
  /-- CCRECALC, format Z (R202). -/
  | ccrecalc (z : Byte)
  /-- BRRESET, format Z (R203). -/
  | brreset (z : Byte)
  /-- BRPASS, format Z (R204). -/
  | brpass (z : Byte)
  /-- TICK, format Z (R217). -/
  | tick (z : Byte)
  /-- GETPAR, format Z (R263). -/
  | getpar (z : Byte)
  /-- SETPAR, format Z (R264). -/
  | setpar (z : Byte)
  /-- GETST, format Z (R265). -/
  | getst (z : Byte)
  /-- SETST, format Z (R266). -/
  | setst (z : Byte)
  deriving DecidableEq, Repr

end Sys2Proof
end

