-- ==== Sys2Proof/WellFormed.lean ====
section
/-! DEFINITION. The field checks of format FX (R82, R83): which terms of `Instr` a command word can encode. -/

namespace Sys2Proof

/-- R82, R77: MUL and DIV accept W in 0, 1 only. -/
def Width.acceptedByMulDiv : Width → Bool
  | .w16 => true
  | .w32 => true
  | .w64 => false

/-- R82, R78: MUL and DIV accept RD and RN only. -/
def Rounding.acceptedByMulDiv : Rounding → Bool
  | .rd => true
  | .ru => false
  | .rn => true

/-- R83: the rescale of MUL needs FA + FB - FR >= 0. -/
def mulRescales (fa fb fr : BitVec 6) : Bool :=
  decide (fr.toNat ≤ fa.toNat + fb.toNat)

/-- R83: the rescale of DIV needs FA + N - FB - FR >= 0. -/
def divRescales (w : Width) (fa fb fr : BitVec 6) : Bool :=
  decide (fb.toNat + fr.toNat ≤ fa.toNat + w.bits)

/-- The commands that some legal word encodes (R81, R82). The reserved codes W = 3 and RM = 3 and the
fields a command fixes at 0 are not representable in `Instr`, so only MUL and DIV have a check left. -/
def Instr.wellFormed : Instr → Bool
  | .init => true
  | .sat _ _ => true
  | .shr _ _ _ _ => true
  | .mul _ w rm fa fb fr => w.acceptedByMulDiv && rm.acceptedByMulDiv && mulRescales fa fb fr
  | .div _ w rm fa fb fr => w.acceptedByMulDiv && rm.acceptedByMulDiv && divRescales w fa fb fr
  | .gam8 => true
  | .gam16 => true
  | .gamrgb => true
  | .rgb2hsv => true
  | .hsv2rgb => true
  | .calboost => true
  | .ccreset _ => true
  | .ccrecalc _ => true
  | .brreset _ => true
  | .brpass _ => true
  | .tick _ => true
  | .getpar _ => true
  | .setpar _ => true
  | .getst _ => true
  | .setst _ => true

end Sys2Proof
end

