-- ==== Sys2Proof/Decode.lean ====
section
/-! DEFINITION. The decoder, total on all command words (R81), rejecting by name, and the encoder written
from the same tables (R72, R73, R75, R80). -/

namespace Sys2Proof

/-- Why a word is not a legal command (R81, R82). Every one of them is the fault ILLEGAL_CMD. -/
inductive DecodeError where
  /-- OPC is not in the opcode map (R80, R84). -/
  | opcode
  /-- A reserved bit of the format is not 0 (R81 (b)). -/
  | reservedBit
  /-- W is reserved or not accepted by the command (R77). -/
  | width
  /-- RM is reserved or not accepted by the command (R78). -/
  | rounding
  /-- A field that the command requires to be 0 is not 0 (R79). -/
  | fixedField
  /-- The rescale would need a left shift (R83). -/
  | rescale
  deriving DecidableEq, Repr

/-- The OPC field, bits 7:0 (R72). -/
def opcField (w : Word) : Byte := w.extractLsb' 0 8

/-- The ZONE field of format Z, bits 15:8 (R73). -/
def zoneField (w : Word) : Byte := w.extractLsb' 8 8

/-- The reserved bits 31:8 of format N (R72). -/
def reservedN (w : Word) : BitVec 24 := w.extractLsb' 8 24

/-- The reserved bits 31:16 of format Z (R73). -/
def reservedZ (w : Word) : BitVec 16 := w.extractLsb' 16 16

/-- The reserved bit 31 of format FX (R75). -/
def reservedFX (w : Word) : BitVec 1 := w.extractLsb' 31 1

/-- The S field, bit 8 (R75). -/
def sField (w : Word) : BitVec 1 := w.extractLsb' 8 1

/-- The W field, bits 10:9 (R75). -/
def wField (w : Word) : BitVec 2 := w.extractLsb' 9 2

/-- The RM field, bits 12:11 (R75). -/
def rmField (w : Word) : BitVec 2 := w.extractLsb' 11 2

/-- The FA field, bits 18:13 (R75). -/
def faField (w : Word) : BitVec 6 := w.extractLsb' 13 6

/-- The FB field, bits 24:19 (R75). -/
def fbField (w : Word) : BitVec 6 := w.extractLsb' 19 6

/-- The FR field, bits 30:25 (R75). -/
def frField (w : Word) : BitVec 6 := w.extractLsb' 25 6

/-- R76: S = 1 is signed. -/
def signednessOf (s : BitVec 1) : Signedness :=
  if s = 1 then .signed else .unsigned

/-- R77: the width a W code stands for; code 3 is reserved. -/
def widthOf (c : BitVec 2) : Option Width :=
  if c = 0 then some .w16 else if c = 1 then some .w32 else if c = 2 then some .w64 else none

/-- R78: the rounding mode an RM code stands for; code 3 is reserved. -/
def roundingOf (c : BitVec 2) : Option Rounding :=
  if c = 0 then some .rd else if c = 1 then some .ru else if c = 2 then some .rn else none

/-- R72: a format-N word is legal when its reserved bits are 0. -/
def decodeN (i : Instr) (w : Word) : Except DecodeError Instr :=
  if reservedN w = 0 then .ok i else .error .reservedBit

/-- R73: a format-Z word is legal when its reserved bits are 0; it carries the zone id. -/
def decodeZ (mk : Byte → Instr) (w : Word) : Except DecodeError Instr :=
  if reservedZ w = 0 then .ok (mk (zoneField w)) else .error .reservedBit

/-- R75, R77, R78: the part of the format-FX checks that all four commands share. -/
def decodeFX (mk : Signedness → Width → Rounding → Except DecodeError Instr) (w : Word) :
    Except DecodeError Instr :=
  if reservedFX w = 0 then
    match widthOf (wField w) with
    | none => .error .width
    | some wd =>
      match roundingOf (rmField w) with
      | none => .error .rounding
      | some rm => mk (signednessOf (sField w)) wd rm
  else .error .reservedBit

/-- R82, SAT: RM = 0 and FA = FB = FR = 0. -/
def decodeSat (w : Word) : Except DecodeError Instr :=
  decodeFX (fun sg wd rm =>
    if rm = .rd then
      if faField w = 0 ∧ fbField w = 0 ∧ frField w = 0 then .ok (.sat sg wd)
      else .error .fixedField
    else .error .rounding) w

/-- R82, SHR: FB = FR = 0; S and SH = FA are free. -/
def decodeShr (w : Word) : Except DecodeError Instr :=
  decodeFX (fun sg wd rm =>
    if fbField w = 0 ∧ frField w = 0 then .ok (.shr sg wd rm (faField w))
    else .error .fixedField) w

/-- R82, MUL: W in 0, 1; RM in 0, 2; FA + FB - FR >= 0. -/
def decodeMul (w : Word) : Except DecodeError Instr :=
  decodeFX (fun sg wd rm =>
    if wd.acceptedByMulDiv then
      if rm.acceptedByMulDiv then
        if mulRescales (faField w) (fbField w) (frField w) then
          .ok (.mul sg wd rm (faField w) (fbField w) (frField w))
        else .error .rescale
      else .error .rounding
    else .error .width) w

/-- R82, DIV: W in 0, 1; RM in 0, 2; FA + N - FB - FR >= 0. -/
def decodeDiv (w : Word) : Except DecodeError Instr :=
  decodeFX (fun sg wd rm =>
    if wd.acceptedByMulDiv then
      if rm.acceptedByMulDiv then
        if divRescales wd (faField w) (fbField w) (frField w) then
          .ok (.div sg wd rm (faField w) (fbField w) (frField w))
        else .error .rescale
      else .error .rounding
    else .error .width) w

/-- The decoder (R80 to R84): OPC alone selects the format, and every word that is not legal is rejected by
name. -/
def decode (w : Word) : Except DecodeError Instr :=
  match (opcField w).toNat with
  | 0x01 => decodeN .init w
  | 0x10 => decodeSat w
  | 0x11 => decodeShr w
  | 0x12 => decodeMul w
  | 0x13 => decodeDiv w
  | 0x20 => decodeN .gam8 w
  | 0x21 => decodeN .gam16 w
  | 0x22 => decodeN .gamrgb w
  | 0x30 => decodeN .rgb2hsv w
  | 0x31 => decodeN .hsv2rgb w
  | 0x40 => decodeN .calboost w
  | 0x50 => decodeZ .ccreset w
  | 0x51 => decodeZ .ccrecalc w
  | 0x52 => decodeZ .brreset w
  | 0x53 => decodeZ .brpass w
  | 0x54 => decodeZ .tick w
  | 0x60 => decodeZ .getpar w
  | 0x61 => decodeZ .setpar w
  | 0x62 => decodeZ .getst w
  | 0x63 => decodeZ .setst w
  | _ => .error .opcode

/-- Whether an OPC value is a format-Z opcode of the map (R73, R80). -/
def isFormatZ (opc : Byte) : Bool :=
  (decide (0x50 ≤ opc.toNat) && decide (opc.toNat ≤ 0x54)) ||
  (decide (0x60 ≤ opc.toNat) && decide (opc.toNat ≤ 0x63))

/-- The OPC value of a command (R80). -/
def opcodeOf : Instr → Byte
  | .init => 0x01
  | .sat _ _ => 0x10
  | .shr _ _ _ _ => 0x11
  | .mul _ _ _ _ _ _ => 0x12
  | .div _ _ _ _ _ _ => 0x13
  | .gam8 => 0x20
  | .gam16 => 0x21
  | .gamrgb => 0x22
  | .rgb2hsv => 0x30
  | .hsv2rgb => 0x31
  | .calboost => 0x40
  | .ccreset _ => 0x50
  | .ccrecalc _ => 0x51
  | .brreset _ => 0x52
  | .brpass _ => 0x53
  | .tick _ => 0x54
  | .getpar _ => 0x60
  | .setpar _ => 0x61
  | .getst _ => 0x62
  | .setst _ => 0x63

/-- The ZONE field of a format-Z command, and 0 for the other formats: what FAULT_ZONE records (R283). -/
def zoneOf : Instr → Byte
  | .init => 0
  | .sat _ _ => 0
  | .shr _ _ _ _ => 0
  | .mul _ _ _ _ _ _ => 0
  | .div _ _ _ _ _ _ => 0
  | .gam8 => 0
  | .gam16 => 0
  | .gamrgb => 0
  | .rgb2hsv => 0
  | .hsv2rgb => 0
  | .calboost => 0
  | .ccreset z => z
  | .ccrecalc z => z
  | .brreset z => z
  | .brpass z => z
  | .tick z => z
  | .getpar z => z
  | .setpar z => z
  | .getst z => z
  | .setst z => z

/-- The S code of a signedness (R76). -/
def signednessCode : Signedness → BitVec 1
  | .unsigned => 0
  | .signed => 1

/-- The W code of a width (R77). -/
def widthCode : Width → BitVec 2
  | .w16 => 0
  | .w32 => 1
  | .w64 => 2

/-- The RM code of a rounding mode (R78). -/
def roundingCode : Rounding → BitVec 2
  | .rd => 0
  | .ru => 1
  | .rn => 2

/-- A word of format N (R72). -/
def encodeN (opc : Byte) : Word := 0#24 ++ opc

/-- A word of format Z (R73). -/
def encodeZ (opc z : Byte) : Word := 0#16 ++ z ++ opc

/-- A word of format FX (R75). -/
def encodeFX (opc : Byte) (sg : Signedness) (w : Width) (rm : Rounding) (fa fb fr : BitVec 6) : Word :=
  0#1 ++ fr ++ fb ++ fa ++ roundingCode rm ++ widthCode w ++ signednessCode sg ++ opc

/-- The command word of a command (R72 to R80). -/
def encode : Instr → Word
  | .init => encodeN 0x01
  | .sat sg w => encodeFX 0x10 sg w .rd 0 0 0
  | .shr sg w rm sh => encodeFX 0x11 sg w rm sh 0 0
  | .mul sg w rm fa fb fr => encodeFX 0x12 sg w rm fa fb fr
  | .div sg w rm fa fb fr => encodeFX 0x13 sg w rm fa fb fr
  | .gam8 => encodeN 0x20
  | .gam16 => encodeN 0x21
  | .gamrgb => encodeN 0x22
  | .rgb2hsv => encodeN 0x30
  | .hsv2rgb => encodeN 0x31
  | .calboost => encodeN 0x40
  | .ccreset z => encodeZ 0x50 z
  | .ccrecalc z => encodeZ 0x51 z
  | .brreset z => encodeZ 0x52 z
  | .brpass z => encodeZ 0x53 z
  | .tick z => encodeZ 0x54 z
  | .getpar z => encodeZ 0x60 z
  | .setpar z => encodeZ 0x61 z
  | .getst z => encodeZ 0x62 z
  | .setst z => encodeZ 0x63 z

/-- The command word whose bits are `w`, numbered as spec/opcode_table.json numbers them (bit i of the bus
word is bit i of CMD, R54). Every row of the table has one word of 32 bits; bits above `nbits` are 0. -/
def tableWord (nbits w : Nat) : Word := BitVec.ofNat 32 (w % 2 ^ nbits)

/-- The command the decoder reads from a row of the opcode table. -/
def decodeTableWord (nbits w : Nat) : Option Instr :=
  match decode (tableWord nbits w) with
  | .ok i => some i
  | .error _ => none

end Sys2Proof
end

