-- ==== Sys2Proof/Config.lean ====
section
/-! DEFINITION. The construction-time parameters of a unit (R6 to R12, R45, and FXLED_BASE of R50), the
check that a parameter set is well formed, the spec's defaults, and the two parameters the spec leaves
OPEN as constants without a body. -/

namespace Sys2Proof

/-- The construction-time parameters (R6 to R11, R50). No command and no reset changes them (R45): they
are the argument of the step relation, carried in `State.params`. -/
structure Params where
  /-- `NUM_ZONES` (R6), 1..256 in a well-formed set. -/
  numZones : Nat
  /-- `GAMMA_ORDER` (R7): the number of terms K of the gamma series, 1..5 in a well-formed set. -/
  gammaOrder : Nat
  /-- `GAMMA8_TABLE` (R8): T[0..255]. -/
  gamma8Table : Vector Byte 256
  /-- `GAMMA_COEF[0..4]` (R9): signed Q4.27 values. -/
  gammaCoef : Vector Word 5
  /-- `DIE_LAMP_RATIO` (R10): unsigned Q16.16. -/
  dieLampRatio : Word
  /-- `CUBIC_C0` to `CUBIC_C3` (R11): signed Q4.27 values. -/
  cubicC0 : Word
  cubicC1 : Word
  cubicC2 : Word
  cubicC3 : Word
  /-- `FXLED_BASE` (R50, R298): the platform's base address of the register window. -/
  fxledBase : Nat
  deriving DecidableEq, Repr

/-- Whether each entry is at most the next one. -/
def nondecreasing : List Byte → Bool
  | [] => true
  | [_] => true
  | a :: b :: rest => decide (a.toNat ≤ b.toNat) && nondecreasing (b :: rest)

/-- R12: a parameter set is well formed when `NUM_ZONES` is in 1..256, `GAMMA_ORDER` is in 1..5 and
`GAMMA8_TABLE` is nondecreasing (its entries are in 0..255 by their type). -/
def Params.wellFormed (p : Params) : Bool :=
  decide (1 ≤ p.numZones) && decide (p.numZones ≤ 256) &&
  decide (1 ≤ p.gammaOrder) && decide (p.gammaOrder ≤ 5) &&
  nondecreasing p.gamma8Table.toList

namespace Config

/-- `DIE_LAMP_RATIO` of the unit as built: OPEN, the spec gives no value (R10, D22). -/
opaque dieLampRatio : Word

/-- `FXLED_BASE` of the unit as built: OPEN, chosen by the platform (R50, D2). -/
opaque fxledBase : Nat

/-- Rows 0 to 127 of the reference table of R131 (decision D18). -/
def gamma8Low : List Byte :=
  [0, 0, 0, 0, 0, 0, 0, 0, 0, 0, 0, 0, 0, 0, 0, 1] ++
  [1, 1, 1, 1, 1, 1, 1, 1, 1, 2, 2, 2, 2, 2, 2, 2] ++
  [3, 3, 3, 3, 3, 4, 4, 4, 4, 5, 5, 5, 5, 6, 6, 6] ++
  [6, 7, 7, 7, 8, 8, 8, 9, 9, 9, 10, 10, 11, 11, 11, 12] ++
  [12, 13, 13, 13, 14, 14, 15, 15, 16, 16, 17, 17, 18, 18, 19, 19] ++
  [20, 20, 21, 22, 22, 23, 23, 24, 25, 25, 26, 26, 27, 28, 28, 29] ++
  [30, 30, 31, 32, 33, 33, 34, 35, 35, 36, 37, 38, 39, 39, 40, 41] ++
  [42, 43, 43, 44, 45, 46, 47, 48, 49, 49, 50, 51, 52, 53, 54, 55]

/-- Rows 128 to 255 of the reference table of R131 (decision D18). -/
def gamma8High : List Byte :=
  [56, 57, 58, 59, 60, 61, 62, 63, 64, 65, 66, 67, 68, 69, 70, 71] ++
  [73, 74, 75, 76, 77, 78, 79, 81, 82, 83, 84, 85, 87, 88, 89, 90] ++
  [91, 93, 94, 95, 97, 98, 99, 100, 102, 103, 105, 106, 107, 109, 110, 111] ++
  [113, 114, 116, 117, 119, 120, 121, 123, 124, 126, 127, 129, 130, 132, 133, 135] ++
  [137, 138, 140, 141, 143, 145, 146, 148, 149, 151, 153, 154, 156, 158, 159, 161] ++
  [163, 165, 166, 168, 170, 172, 173, 175, 177, 179, 181, 182, 184, 186, 188, 190] ++
  [192, 194, 196, 197, 199, 201, 203, 205, 207, 209, 211, 213, 215, 217, 219, 221] ++
  [223, 225, 227, 229, 231, 234, 236, 238, 240, 242, 244, 246, 248, 251, 253, 255]

/-- The reference 8-bit gamma table (R131). -/
def gamma8Table : Vector Byte 256 :=
  ⟨(gamma8Low ++ gamma8High).toArray, by decide +kernel⟩

/-- The default series coefficients (R9), signed Q4.27. -/
def gammaCoef : Vector Word 5 :=
  #v[BitVec.ofInt 32 134217728, BitVec.ofInt 32 26843546, BitVec.ofInt 32 (-10737418),
     BitVec.ofInt 32 6442451, BitVec.ofInt 32 (-4509716)]

/-- The parameters of the unit `State.reset` describes: the defaults of R6 to R9 and R11, and the OPEN
constants for R10 and R50. -/
def params : Params where
  numZones := 2
  gammaOrder := 5
  gamma8Table := gamma8Table
  gammaCoef := gammaCoef
  dieLampRatio := dieLampRatio
  cubicC0 := 0
  cubicC1 := 0
  cubicC2 := BitVec.ofInt 32 402653184
  cubicC3 := BitVec.ofInt 32 (-268435456)
  fxledBase := fxledBase

end Config
end Sys2Proof
end

