-- ==== Sys2Proof/Machine/State.lean ====
section
/-! DEFINITION. The state of the unit (10_state.md), the host's accesses and the platform's reset as
pending inputs, the reasons a step can stop, and the state after reset (R44, R310). -/

namespace Sys2Proof.Machine

/-- The breathing states, BR_STATE (R36). Codes 6 and 7 are not states, so BR_STATE never holds them. -/
inductive BrState where
  | startup
  | rampUp
  | topSeg
  | rampDown
  | bottomSeg
  | passthrough
  deriving DecidableEq, Repr

/-- The parameter record ZP[z] (R29). Slopes are signed Q4.27. -/
structure ZoneParams where
  /-- CC_PERIOD, u32. -/
  ccPeriod : Word
  /-- CC_SLOPE, s32 Q4.27. -/
  ccSlope : Word
  /-- CC_EN. -/
  ccEn : Bool
  /-- BR_PERIOD, u32. -/
  brPeriod : Word
  /-- BR_RAMP, u32. -/
  brRamp : Word
  /-- BR_TOP, u32. -/
  brTop : Word
  /-- BR_BOT, u32. -/
  brBot : Word
  /-- BR_SLOPE, s32 Q4.27. -/
  brSlope : Word
  /-- BR_EN. -/
  brEn : Bool
  /-- BR_TOP_EN. -/
  brTopEn : Bool
  /-- BR_BOT_EN. -/
  brBotEn : Bool
  /-- BR_CUBIC_EN. -/
  brCubicEn : Bool
  deriving DecidableEq, Repr

/-- Three RGB channels, unsigned 16-bit each (R13). -/
structure Rgb where
  r : Half
  g : Half
  b : Half
  deriving DecidableEq, Repr

/-- The state record ZS[z] (R34). HSV fields are signed Q4.27. -/
structure ZoneState where
  /-- CC_IDX, u32. -/
  ccIdx : Word
  /-- BR_TICK, u32. -/
  brTick : Word
  /-- BR_SEG, u32. -/
  brSeg : Word
  /-- BR_STATE. -/
  brState : BrState
  /-- IN_H, s32 Q4.27. -/
  inH : Word
  /-- IN_S, s32 Q4.27. -/
  inS : Word
  /-- IN_V, s32 Q4.27. -/
  inV : Word
  /-- OUT_H, s32 Q4.27. -/
  outH : Word
  /-- OUT_S, s32 Q4.27. -/
  outS : Word
  /-- OUT_V, s32 Q4.27. -/
  outV : Word
  /-- OUT_R, OUT_G and OUT_B, u16 each. -/
  outRgb : Rgb
  /-- CC_DRIFT, s32. -/
  ccDrift : Word
  /-- BR_DRIFT, s32. -/
  brDrift : Word
  deriving DecidableEq, Repr

/-- One zone's two records (R28). -/
structure Zone where
  par : ZoneParams
  st : ZoneState
  deriving DecidableEq, Repr

/-- Every field of ZP[z] at 0 (R29, R44). -/
def ZoneParams.zero : ZoneParams where
  ccPeriod := 0
  ccSlope := 0
  ccEn := false
  brPeriod := 0
  brRamp := 0
  brTop := 0
  brBot := 0
  brSlope := 0
  brEn := false
  brTopEn := false
  brBotEn := false
  brCubicEn := false

/-- Every field of ZS[z] at 0; BR_STATE = 0 = STARTUP (R34, R44). -/
def ZoneState.zero : ZoneState where
  ccIdx := 0
  brTick := 0
  brSeg := 0
  brState := .startup
  inH := 0
  inS := 0
  inV := 0
  outH := 0
  outS := 0
  outV := 0
  outRgb := { r := 0, g := 0, b := 0 }
  ccDrift := 0
  brDrift := 0

/-- A zone as INIT and reset leave it (R44, R260). -/
def Zone.zero : Zone where
  par := ZoneParams.zero
  st := ZoneState.zero

/-- The cause codes 0 to 7 (R281). Codes 8 to 15 are never recorded, so STATUS never holds them. -/
inductive Cause where
  | none
  | illegalCmd
  | busError
  | badZone
  | badRecord
  | periodZero
  | divZero
  | divOverflow
  deriving DecidableEq, Repr

/-- The fields of STATUS that a fault writes (R25, R283). BUSY is hardwired 0 and the reserved bits read 0:
`statusWord` gives the register as it reads. -/
structure Status where
  /-- STATUS.FAULT, bit 0, sticky. -/
  fault : Bool
  /-- STATUS.CAUSE, bits 7:4. -/
  cause : Cause
  /-- STATUS.FAULT_OPC, bits 15:8. -/
  faultOpc : Byte
  /-- STATUS.FAULT_ZONE, bits 23:16. -/
  faultZone : Byte
  deriving DecidableEq, Repr

/-- STATUS = 0: no fault recorded (R25, R44). -/
def Status.clear : Status where
  fault := false
  cause := .none
  faultOpc := 0
  faultZone := 0

/-- The size of a host access. Only a 32-bit access is legal (R52). -/
inductive AccessSize where
  | byte
  | half
  | word
  | dword
  deriving DecidableEq, Repr

/-- What reaches the unit from outside: the host's accesses to the window (R5, R50) and the platform's
reset (R310). Offsets are bytes from `FXLED_BASE`. -/
inductive HostEvent where
  /-- A host load of the given size at a byte offset. -/
  | read (size : AccessSize) (offset : Nat)
  /-- A host store. `data` is the bus word; a store that is not 32 bits wide stores nothing (R52), so its
  data is not carried. -/
  | write (size : AccessSize) (offset : Nat) (data : Word)
  /-- The platform's reset of the unit, "an event and not a command" (R310). -/
  | reset
  deriving DecidableEq, Repr

/-- What a byte offset of the window names (R51). The half registers are xx_LO (`hi = false`) and xx_HI
(`hi = true`). -/
inductive WindowReg where
  | cmd
  | status
  | cfgid
  | operandHalf (i : Fin 4) (hi : Bool)
  | resultHalf (i : Fin 4) (hi : Bool)
  | recordWord (i : Fin 16)
  | reserved
  deriving DecidableEq, Repr

/-- The unit's state (R20 to R45). There is no program counter (R20), no flag (R27) and no memory (R50 (b),
R62), no interrupt bit (R290), no mode or privilege level (R291, R312), and no handler address, fault level or
delegation register (R297): the registers of the window and the zone record store are all there is (R43). -/
structure State where
  /-- A0 to A3 (R21). -/
  a : Vector DWord 4
  /-- Y0 to Y3 (R22). -/
  y : Vector DWord 4
  /-- RB0 to RB15 (R23). -/
  rb : Vector Word 16
  /-- STATUS (R25). -/
  status : Status
  /-- The zone record store: ZP[z] and ZS[z] for z in 0..NUM_ZONES-1 (R28). -/
  zones : List Zone
  /-- The construction-time parameters (R45), which every step keeps. They are not architectural state: they
  are the argument of the step relation, carried along. CFGID (R26) reads from them. -/
  params : Params
  /-- The MODEL's own field, not the spec's: the host's accesses in program order that the unit has not yet
  accepted, oldest first (R5, R59). -/
  bus : List HostEvent
  /-- The MODEL's own field, not the spec's: the value the last event returned to the host, for a load. -/
  reply : Option Word
  deriving DecidableEq, Repr

/-- Why the machine stops with a fault. The spec's faults are none of these: they are records in STATUS
after which the unit goes on (60_exceptions.md). -/
inductive Fault where
  /-- Raised by `hostEvent` for an access at an offset of 0x100 or more: the window is 256 bytes and the
  unit's only interface (R50, R298), so no such address exists in this unit. Safe: the machine stops where
  the spec gives the unit nothing to do. -/
  | outsideWindow
  deriving DecidableEq, Repr

/-- Why a request is refused. -/
inductive Refusal where
  /-- Raised by an arm of `exec` whose command has no meaning yet; no arm of this model does. Safe. -/
  | notModelled (mnemonic : String)
  /-- Raised by `State.construct` for a parameter set that is not well formed: the unit is not built (R12).
  No step raises it. Safe. -/
  | badParameters
  deriving DecidableEq, Repr

/-- The unit built with parameters `p`, right after reset (R44, R310), with no access pending. -/
def State.resetWith (p : Params) : State where
  a := Vector.replicate 4 0
  y := Vector.replicate 4 0
  rb := Vector.replicate 16 0
  status := Status.clear
  zones := List.replicate p.numZones Zone.zero
  params := p
  bus := []
  reply := none

/-- R12: "A model refuses to construct the unit from a parameter set that is not well formed." -/
def State.construct (p : Params) : Host.Outcome State Fault Refusal :=
  if p.wellFormed then .next (State.resetWith p) else .refused .badParameters

/-- The machine right after reset, with the parameters of `Config.params`. -/
def State.reset : State := State.resetWith Config.params

end Sys2Proof.Machine
end

