-- ==== Sys2Proof/Machine/Flags.lean ====
section
/-! DEFINITION. FXLED has no condition codes, flags or predicates (R27): no command sets or reads one, and
this file holds the one status register instead: STATUS as it reads (R25) and the cause codes (R281). -/

namespace Sys2Proof.Machine

/-- The cause codes (R281). -/
def causeCode : Cause → BitVec 4
  | .none => 0
  | .illegalCmd => 1
  | .busError => 2
  | .badZone => 3
  | .badRecord => 4
  | .periodZero => 5
  | .divZero => 6
  | .divOverflow => 7

/-- STATUS as the host reads it (R25): bits [31:24] and [3:2] reserved, BUSY = bit 1 hardwired 0. -/
def statusWord (st : Status) : Word :=
  0#8 ++ st.faultZone ++ st.faultOpc ++ causeCode st.cause ++ 0#3 ++
    BitVec.ofBool st.fault

end Sys2Proof.Machine
end

