-- ==== Sys2Proof/Machine/Arith.lean ====
section
/-! DEFINITION. The arithmetic helpers of R15, on mathematical integers with no wrap-around. Lean's `/` and
`%` on `Int` are the floor quotient and the `mod` of R15 for a positive divisor, and every divisor here is
positive. -/

namespace Sys2Proof.Machine

/-- `ONE` = 2^27, the Q4.27 encoding of 1.0 (R13). -/
def one : Int := 134217728

/-- `shr_floor(x, n)` (R15). -/
def shrFloor (x : Int) (n : Nat) : Int := x / 2 ^ n

/-- `shr_ceil(x, n)` (R15). -/
def shrCeil (x : Int) (n : Nat) : Int := -((-x) / 2 ^ n)

/-- `shr_round(x, n)` (R15): to nearest, ties toward plus infinity. -/
def shrRound (x : Int) (n : Nat) : Int :=
  if n = 0 then x else (x + 2 ^ (n - 1)) / 2 ^ n

/-- `rdiv(a, b)` for b > 0 (R15): to nearest, ties toward plus infinity. -/
def rdiv (a b : Int) : Int := (2 * a + b) / (2 * b)

/-- `rmul27(a, b)` (R15): the Q4.27 product of two Q4.27 values, rounded. -/
def rmul27 (a b : Int) : Int := shrRound (a * b) 27

/-- `clamp(x, lo, hi)` (R15). -/
def clamp (x lo hi : Int) : Int :=
  if x < lo then lo else if hi < x then hi else x

/-- `clamp16(x)` (R15). -/
def clamp16 (x : Int) : Int := clamp x 0 65535

/-- The largest of three channel values. -/
def max3 (a b c : Nat) : Nat := max (max a b) c

/-- The smallest of three channel values. -/
def min3 (a b c : Nat) : Nat := min (min a b) c

/-- `n` full applications of a step function, one after the other (R216). -/
def applyTimes {α : Type} (n : Nat) (f : α → α) (x : α) : α :=
  match n with
  | 0 => x
  | k + 1 => applyTimes k f (f x)

end Sys2Proof.Machine
end

