-- ==== Sys2Proof/Machine/Operands.lean ====
section
/-! DEFINITION. Operand forms: how a command reads the bits of an operand register (R58, R76, R100) and how
a result is laid out in a result register (R58, R101), and the split of a 64-bit register into its two
window halves (R54, R56). -/

namespace Sys2Proof.Machine

/-- `sext_N` or `zext_N` of an operand register, as S says (R76, R100). Bits above N-1 are ignored. -/
def operand (sg : Signedness) (w : Width) (v : DWord) : Int :=
  match sg with
  | .signed => (v.setWidth w.bits).toInt
  | .unsigned => (v.setWidth w.bits).toNat

/-- `zext_N` of the SAT bound, whatever S is (R100, R102). -/
def boundOperand (w : Width) (v : DWord) : Int := (v.setWidth w.bits).toNat

/-- `sext_32(A[i])` (R157). -/
def q27Operand (v : DWord) : Int := (v.setWidth 32).toInt

/-- A period operand, A[0][31:0] (R201 to R203). -/
def periodOperand (v : DWord) : Word := v.extractLsb' 0 32

/-- An 8-bit sample, A[0][7:0] (R130). -/
def sample8 (v : DWord) : Byte := v.extractLsb' 0 8

/-- A 16-bit sample, A[0][15:0] (R135). -/
def sample16 (v : DWord) : Half := v.extractLsb' 0 16

/-- `unpack(x)` (R58). Bits [63:48] are ignored. -/
def unpack (v : DWord) : Rgb where
  r := v.extractLsb' 0 16
  g := v.extractLsb' 16 16
  b := v.extractLsb' 32 16

/-- `pack(r, g, b)` (R58). Bits [63:48] are 0. -/
def pack (c : Rgb) : DWord := 0#16 ++ c.b ++ c.g ++ c.r

/-- cal_r, bits [7:0] of the packed calibration bytes (R58). -/
def calR (v : DWord) : Byte := v.extractLsb' 0 8

/-- cal_g, bits [15:8] (R58). -/
def calG (v : DWord) : Byte := v.extractLsb' 8 8

/-- cal_b, bits [23:16] (R58). -/
def calB (v : DWord) : Byte := v.extractLsb' 16 8

/-- A result as a 64-bit register holds it: r mod 2^64 (R16, R101). -/
def resultWord (r : Int) : DWord := BitVec.ofInt 64 r

/-- A value as a 32-bit record field holds it. -/
def fieldWord (x : Int) : Word := BitVec.ofInt 32 x

/-- A value as a 16-bit channel holds it. -/
def channel (x : Int) : Half := BitVec.ofInt 16 x

/-- xx_LO (bits [31:0]) or xx_HI (bits [63:32]) of a 64-bit register (R54). -/
def halfOf (hi : Bool) (v : DWord) : Word :=
  if hi then v.extractLsb' 32 32 else v.extractLsb' 0 32

/-- A 64-bit register with one half replaced, the other kept (R56). -/
def withHalf (hi : Bool) (v : DWord) (w : Word) : DWord :=
  if hi then w ++ v.extractLsb' 0 32 else v.extractLsb' 32 32 ++ w

end Sys2Proof.Machine
end

