-- ==== Sys2Proof/Machine/Ops.lean ====
section
/-! DEFINITION. The named operations over the state: registers, the zone record store, recording a fault
(R283, R289) and the platform's reset (R310), the only way out of a fault (R288). -/

namespace Sys2Proof.Machine

/-- Y[i] <- v (R16, R22). The other result registers keep their values. -/
def State.setY (s : State) (i : Fin 4) (v : DWord) : State :=
  { s with y := s.y.set i v }

/-- A[i] <- v, by a host write (R21). -/
def State.setA (s : State) (i : Fin 4) (v : DWord) : State :=
  { s with a := s.a.set i v }

/-- RB[i] <- v, by a host write (R23). -/
def State.setRb (s : State) (i : Fin 16) (v : Word) : State :=
  { s with rb := s.rb.set i v }

/-- RB[0..15] <- a record image (R263, R265). -/
def State.setRecordBuffer (s : State) (v : Vector Word 16) : State :=
  { s with rb := v }

/-- The two records of zone z (R28). A zone that the store does not hold reads as zero; `State.Inv` rules
that out for z < NUM_ZONES. -/
def State.zone (s : State) (z : Byte) : Zone := s.zones.getD z.toNat Zone.zero

/-- The records of zone z replaced; no other zone changes (R28). -/
def State.setZone (s : State) (z : Byte) (zn : Zone) : State :=
  { s with zones := s.zones.set z.toNat zn }

/-- ZP[z] replaced. -/
def State.setZonePar (s : State) (z : Byte) (p : ZoneParams) : State :=
  s.setZone z { s.zone z with par := p }

/-- ZS[z] replaced. -/
def State.setZoneSt (s : State) (z : Byte) (st : ZoneState) : State :=
  s.setZone z { s.zone z with st := st }

/-- Every zone's records at 0 (R260). -/
def State.clearZones (s : State) : State :=
  { s with zones := s.zones.map fun _ => Zone.zero }

/-- Fault entry (R283): when STATUS.FAULT = 0, one step sets FAULT, CAUSE, FAULT_OPC and FAULT_ZONE and
changes nothing else. When a fault is already recorded, nothing changes (R284, R289). One level and
no handler (R297): no control transfer, no second record, nothing saved to return to, nothing delegated. -/
def raiseFault (c : Cause) (opc zone : Byte) (s : State) : State :=
  if s.status.fault then s
  else { s with status := { fault := true, cause := c, faultOpc := opc, faultZone := zone } }

/-- The fault of a legal command: FAULT_OPC is its OPC and FAULT_ZONE its ZONE field, 0 for a command that
is not of format Z (R283). -/
def raiseBy (c : Cause) (i : Instr) (s : State) : State :=
  raiseFault c (opcodeOf i) (zoneOf i) s

/-- The ILLEGAL_CMD fault of a word that is not a legal command (R81, R283): FAULT_ZONE is bits [15:8] of
the word when its OPC is a format-Z opcode, else 0. -/
def raiseIllegalWord (w : Word) (s : State) : State :=
  raiseFault .illegalCmd (opcField w) (if isFormatZ (opcField w) then zoneField w else 0) s

/-- The BUS_ERROR fault of a bad host access: FAULT_OPC and FAULT_ZONE are 0 (R25, R283, R286). -/
def raiseBusError (s : State) : State := raiseFault .busError 0 0 s

/-- A zone id z is valid when z < NUM_ZONES (R6). -/
def State.zoneValid (s : State) (z : Byte) : Bool := decide (z.toNat < s.params.numZones)

/-- The zone check of a format-Z command (R74, R200), made before every other operand check (R285):
BAD_ZONE for z >= NUM_ZONES, else the rest of the command. -/
def checkZone (i : Instr) (z : Byte) (s : State) (rest : State) :
    Host.Outcome State Fault Refusal :=
  if s.zoneValid z then .next rest else .next (raiseBy .badZone i s)

/-- The platform's reset of the unit (R310): every piece of state at its value of R44. The parameters keep
their values (R45), and the accesses the host has not made yet are not the unit's. -/
def platformReset (s : State) : State :=
  { State.resetWith s.params with bus := s.bus }

end Sys2Proof.Machine
end

