-- ==== Sys2Proof/Machine/CalBoost.lean ====
section
/-! DEFINITION. The calibration and boost engine: CALBOOST (43_calibration_boost.md). -/

namespace Sys2Proof.Machine

/-- The four inverse-gain terms of R181. -/
structure InverseGains where
  r : Int
  g : Int
  b : Int
  lamp : Int
  deriving DecidableEq, Repr

/-- The inverse-gain terms (R181): channel times calibration byte, and the lamp term, the sum of the three
scaled by DIE_LAMP_RATIO at 16 fractional bits. -/
def inverseGains (k : Word) (c : Rgb) (cr cg cb : Byte) : InverseGains where
  r := c.r.toNat * cr.toNat
  g := c.g.toNat * cg.toNat
  b := c.b.toNat * cb.toNat
  lamp := shrRound (((c.r.toNat : Int) * cr.toNat + (c.g.toNat : Int) * cg.toNat +
    (c.b.toNat : Int) * cb.toNat) * k.toNat) 16

/-- m, the largest of the four terms (R180). -/
def gainMax (ig : InverseGains) : Int := max (max (max ig.r ig.g) ig.b) ig.lamp

/-- The boost factor (R182), unsigned Q32.32; 0 when every term is 0, and then no division (R183). -/
def boostFactor (c : Rgb) (ig : InverseGains) : Int :=
  if gainMax ig = 0 then 0
  else rdiv ((max3 c.r.toNat c.g.toNat c.b.toNat : Int) * 2 ^ 32) (gainMax ig)

/-- A boosted channel (R184). -/
def boostChannel (ig bf : Int) : Half := channel (clamp16 (shrRound (ig * bf) 32))

/-- The boosted colour (R180, R184). -/
def boostRgb (ig : InverseGains) (bf : Int) : Rgb where
  r := boostChannel ig.r bf
  g := boostChannel ig.g bf
  b := boostChannel ig.b bf

/-- The inverse-gain terms of the operands of CALBOOST (R180). -/
def operandGains (s : State) : InverseGains :=
  inverseGains s.params.dieLampRatio (unpack s.a[0]) (calR s.a[1]) (calG s.a[1]) (calB s.a[1])

/-- CALBOOST (R180). -/
def execCalboost (s : State) : Host.Outcome State Fault Refusal :=
  .next ((s.setY 0 (resultWord (boostFactor (unpack s.a[0]) (operandGains s)))).setY 1
    (pack (boostRgb (operandGains s) (boostFactor (unpack s.a[0]) (operandGains s)))))

end Sys2Proof.Machine
end

