-- ==== Sys2Proof/Machine/ColorSpace.lean ====
section
/-! DEFINITION. The colour-space converter: RGB2HSV and HSV2RGB (42_color_space.md). -/

namespace Sys2Proof.Machine

/-- An HSV triple as exact Q4.27 integers, before it is stored. -/
structure Hsv where
  h : Int
  s : Int
  v : Int
  deriving DecidableEq, Repr

/-- max(r, g, b) as a number (R150). -/
def channelMax (c : Rgb) : Nat := max3 c.r.toNat c.g.toNat c.b.toNat

/-- min(r, g, b) as a number (R150). -/
def channelMin (c : Rgb) : Nat := min3 c.r.toNat c.g.toNat c.b.toNat

/-- A complement fraction of R153: rdiv((mx - channel) * ONE, d). -/
def complement (mx ch d : Nat) : Int := rdiv (((mx : Int) - ch) * one) d

/-- The raw hue hr of R154. Ties for the maximum go red, then green, then blue. -/
def rawHue (c : Rgb) (mx d : Nat) : Int :=
  if c.r.toNat = mx then complement mx c.b.toNat d - complement mx c.g.toNat d
  else if c.g.toNat = mx then 2 * one + complement mx c.r.toNat d - complement mx c.b.toNat d
  else 4 * one + complement mx c.g.toNat d - complement mx c.r.toNat d

/-- Hue scaling and the single wrap (R155). -/
def wrapHue (hr : Int) : Int :=
  if rdiv hr 6 < 0 then rdiv hr 6 + one else rdiv hr 6

/-- RGB to HSV (R150 to R155). A gray returns h = s = 0 with its value (R151, R152). -/
def rgbToHsv (c : Rgb) : Hsv :=
  if channelMax c - channelMin c = 0 then
    { h := 0, s := 0, v := rdiv ((channelMax c : Int) * one) 65535 }
  else
    { h := wrapHue (rawHue c (channelMax c) (channelMax c - channelMin c))
      s := rdiv (((channelMax c - channelMin c : Nat) : Int) * one) (channelMax c)
      v := rdiv ((channelMax c : Int) * one) 65535 }

/-- Value scaling (R158): V = clamp16(shr_round(v * 65535, 27)). -/
def scaledValue (v : Int) : Int := clamp16 (shrRound (v * 65535) 27)

/-- V scaled by a Q4.27 factor, rounded and clamped to a channel (R161). -/
def scaledChannel (V factor : Int) : Int := clamp16 (shrRound (V * factor) 27)

/-- i = floor(6h / ONE) (R160). -/
def sextantIndex (h : Int) : Int := 6 * h / one

/-- f = 6h - i * ONE, in [0, ONE) (R160). -/
def sextantFraction (h : Int) : Int := 6 * h - sextantIndex h * one

/-- The sextant i mod 6, in 0..5 (R160). -/
def sextant (h : Int) : Nat := (sextantIndex h % 6).toNat

/-- P = V(1 - s) (R161). -/
def channelP (V s : Int) : Int := scaledChannel V (one - s)

/-- Q = V(1 - s*f) (R161). -/
def channelQ (V s f : Int) : Int := scaledChannel V (one - shrRound (s * f) 27)

/-- T = V(1 - s*(1 - f)) (R161). -/
def channelT (V s f : Int) : Int := scaledChannel V (one - shrRound (s * (one - f)) 27)

/-- The sextant assignment table (R162). -/
def sextantChannels (sx : Nat) (V P Q T : Int) : Rgb :=
  match sx with
  | 0 => { r := channel V, g := channel T, b := channel P }
  | 1 => { r := channel Q, g := channel V, b := channel P }
  | 2 => { r := channel P, g := channel V, b := channel T }
  | 3 => { r := channel P, g := channel Q, b := channel V }
  | 4 => { r := channel T, g := channel P, b := channel V }
  | _ => { r := channel V, g := channel P, b := channel Q }

/-- HSV to RGB (R157 to R162), total on every h, s and v. With s = 0 the sextant steps are skipped (R159). -/
def hsvToRgb (h s v : Int) : Rgb :=
  if s = 0 then
    { r := channel (scaledValue v), g := channel (scaledValue v), b := channel (scaledValue v) }
  else
    sextantChannels (sextant h) (scaledValue v) (channelP (scaledValue v) s)
      (channelQ (scaledValue v) s (sextantFraction h)) (channelT (scaledValue v) s (sextantFraction h))

/-- RGB2HSV (R150). -/
def execRgb2hsv (s : State) : Host.Outcome State Fault Refusal :=
  .next (((s.setY 0 (resultWord (rgbToHsv (unpack s.a[0])).h)).setY 1
    (resultWord (rgbToHsv (unpack s.a[0])).s)).setY 2 (resultWord (rgbToHsv (unpack s.a[0])).v))

/-- HSV2RGB (R157). -/
def execHsv2rgb (s : State) : Host.Outcome State Fault Refusal :=
  .next (s.setY 0
    (pack (hsvToRgb (q27Operand s.a[0]) (q27Operand s.a[1]) (q27Operand s.a[2]))))

end Sys2Proof.Machine
end

