-- ==== Sys2Proof/Machine/Effects.lean ====
section
/-! DEFINITION. The effect scheduler: CCRESET, CCRECALC, BRRESET, BRPASS and TICK (44_effects.md). The step
functions are total on every value the fields can hold (R321). -/

namespace Sys2Proof.Machine

/-- A slope, floor(ONE / period), for a period of at least 1 (R201 to R203). -/
def slopeOf (period : Nat) : Word := fieldWord (one / (period : Int))

/-- The colour-cycle configuration for a period (R30): CC_PERIOD, CC_SLOPE and CC_EN. -/
def armColorCycle (p : Word) (zp : ZoneParams) : ZoneParams :=
  { zp with ccPeriod := p, ccSlope := slopeOf p.toNat, ccEn := true }

/-- The index that R202 gives for a hue and a period: floor((OUT_H mod ONE) * p / ONE). -/
def hueIndex (outH p : Word) : Word :=
  fieldWord (outH.toInt % one * (p.toNat : Int) / one)

/-- CCRESET z (R201). -/
def execCcreset (z : Byte) (s : State) : Host.Outcome State Fault Refusal :=
  checkZone (.ccreset z) z s <|
    if periodOperand s.a[0] = 0 then raiseBy .periodZero (.ccreset z) s
    else s.setZone z
      { par := armColorCycle (periodOperand s.a[0]) (s.zone z).par
        st := { (s.zone z).st with ccIdx := 0 } }

/-- CCRECALC z (R202), phase-preserving. -/
def execCcrecalc (z : Byte) (s : State) : Host.Outcome State Fault Refusal :=
  checkZone (.ccrecalc z) z s <|
    if periodOperand s.a[0] = 0 then raiseBy .periodZero (.ccrecalc z) s
    else s.setZone z
      { par := armColorCycle (periodOperand s.a[0]) (s.zone z).par
        st := { (s.zone z).st with
          ccIdx := hueIndex (s.zone z).st.outH (periodOperand s.a[0]) } }

/-- nseg of R203: ramp up, ramp down, and the holds that are present. -/
def segmentCount (zp : ZoneParams) : Nat := 2 + zp.brTopEn.toNat + zp.brBotEn.toNat

/-- rp of R203: floor(p / nseg). -/
def rampPeriod (p : Word) (zp : ZoneParams) : Nat := p.toNat / segmentCount zp

/-- The breathing configuration BRRESET derives for a total period (R203). -/
def armBreathing (p : Word) (zp : ZoneParams) : ZoneParams :=
  { zp with
    brPeriod := p
    brRamp := BitVec.ofNat 32 (rampPeriod p zp)
    brTop := if zp.brTopEn then BitVec.ofNat 32 (rampPeriod p zp) else 0
    brBot := if zp.brBotEn then BitVec.ofNat 32 (rampPeriod p zp) else 0
    brSlope := slopeOf (rampPeriod p zp)
    brEn := true }

/-- BRRESET z (R203). PERIOD_ZERO when the ramp period would be 0. -/
def execBrreset (z : Byte) (s : State) : Host.Outcome State Fault Refusal :=
  checkZone (.brreset z) z s <|
    if rampPeriod (periodOperand s.a[0]) (s.zone z).par = 0 then
      raiseBy .periodZero (.brreset z) s
    else s.setZone z
      { par := armBreathing (periodOperand s.a[0]) (s.zone z).par
        st := { (s.zone z).st with brState := .startup, brSeg := 0, brTick := 0 } }

/-- BRPASS z (R204). -/
def execBrpass (z : Byte) (s : State) : Host.Outcome State Fault Refusal :=
  checkZone (.brpass z) z s <|
    s.setZoneSt z { (s.zone z).st with brState := .passthrough }

/-- Cubic reshaping of a level in [0, ONE] (R206). -/
def shapeCubic (p : Params) (l : Int) : Int :=
  clamp (p.cubicC0.toInt + rmul27 p.cubicC1.toInt l + rmul27 p.cubicC2.toInt (rmul27 l l) +
    rmul27 p.cubicC3.toInt (rmul27 (rmul27 l l) l)) 0 one

/-- The breathing level at ramp position n (R205). -/
def breathLevel (p : Params) (zp : ZoneParams) (n : Nat) : Int :=
  if zp.brCubicEn then shapeCubic p (clamp (n * zp.brSlope.toInt) 0 one)
  else clamp (n * zp.brSlope.toInt) 0 one

/-- bright(n) (R207): the input value times the level. -/
def bright (p : Params) (zp : ZoneParams) (st : ZoneState) (n : Nat) : Word :=
  fieldWord (rmul27 st.inV.toInt (breathLevel p zp n))

/-- The index after one colour-cycle advance (R208): one more, wrapping to 0 at CC_PERIOD. -/
def nextHueIndex (zp : ZoneParams) (st : ZoneState) : Nat :=
  if st.ccIdx.toNat + 1 ≥ zp.ccPeriod.toNat then 0 else st.ccIdx.toNat + 1

/-- CC_STEP (R208). -/
def ccStep (zp : ZoneParams) (st : ZoneState) : ZoneState :=
  if zp.ccEn then
    { st with
      ccIdx := BitVec.ofNat 32 (nextHueIndex zp st)
      outH := fieldWord ((nextHueIndex zp st : Int) * zp.ccSlope.toInt % one) }
  else { st with outH := st.inH }

/-- STARTUP (R210). -/
def brStartup (p : Params) (zp : ZoneParams) (st : ZoneState) : ZoneState :=
  { st with brSeg := 0, brTick := 0, brState := .rampUp, outV := bright p zp st 0 }

/-- The ramp position RAMP_UP moves to (R211): min(min(BR_SEG, rp) + 1, rp). -/
def rampUpSeg (zp : ZoneParams) (st : ZoneState) : Nat :=
  min (min st.brSeg.toNat zp.brRamp.toNat + 1) zp.brRamp.toNat

/-- RAMP_UP (R211). -/
def brRampUp (p : Params) (zp : ZoneParams) (st : ZoneState) : ZoneState :=
  if rampUpSeg zp st = zp.brRamp.toNat then
    if 0 < zp.brTop.toNat then
      { st with
        brSeg := BitVec.ofNat 32 (rampUpSeg zp st)
        outV := bright p zp st (rampUpSeg zp st)
        brState := .topSeg
        brTick := 0 }
    else
      { st with
        brSeg := BitVec.ofNat 32 (rampUpSeg zp st)
        outV := bright p zp st (rampUpSeg zp st)
        brState := .rampDown }
  else
    { st with
      brSeg := BitVec.ofNat 32 (rampUpSeg zp st)
      outV := bright p zp st (rampUpSeg zp st) }

/-- TOP_SEG (R212). With BR_EN = 0 the zone stays, holding its output. -/
def brTopSeg (p : Params) (zp : ZoneParams) (st : ZoneState) : ZoneState :=
  if zp.brEn then
    if st.brTick.toNat + 1 ≥ zp.brTop.toNat then
      { st with
        outV := bright p zp st zp.brRamp.toNat
        brState := .rampDown
        brTick := 0
        brSeg := zp.brRamp }
    else
      { st with
        outV := bright p zp st zp.brRamp.toNat
        brTick := BitVec.ofNat 32 (st.brTick.toNat + 1) }
  else { st with outV := bright p zp st zp.brRamp.toNat }

/-- The ramp position RAMP_DOWN moves to (R213): min(BR_SEG, rp), less 1 unless it is 0. -/
def rampDownSeg (zp : ZoneParams) (st : ZoneState) : Nat :=
  if min st.brSeg.toNat zp.brRamp.toNat > 0 then min st.brSeg.toNat zp.brRamp.toNat - 1
  else min st.brSeg.toNat zp.brRamp.toNat

/-- RAMP_DOWN (R213). -/
def brRampDown (p : Params) (zp : ZoneParams) (st : ZoneState) : ZoneState :=
  if rampDownSeg zp st = 0 then
    if 0 < zp.brBot.toNat then
      { st with
        brSeg := BitVec.ofNat 32 (rampDownSeg zp st)
        outV := bright p zp st (rampDownSeg zp st)
        brState := .bottomSeg
        brTick := 0 }
    else
      { st with
        outV := bright p zp st (rampDownSeg zp st)
        brState := .rampUp
        brSeg := 0
        brTick := 0 }
  else
    { st with
      brSeg := BitVec.ofNat 32 (rampDownSeg zp st)
      outV := bright p zp st (rampDownSeg zp st) }

/-- BOTTOM_SEG (R214). With BR_EN = 0 the zone stays, holding its output. -/
def brBottomSeg (p : Params) (zp : ZoneParams) (st : ZoneState) : ZoneState :=
  if zp.brEn then
    if st.brTick.toNat + 1 ≥ zp.brBot.toNat then
      { st with outV := bright p zp st 0, brState := .rampUp, brSeg := 0, brTick := 0 }
    else
      { st with
        outV := bright p zp st 0
        brTick := BitVec.ofNat 32 (st.brTick.toNat + 1) }
  else { st with outV := bright p zp st 0 }

/-- PASSTHROUGH (R215). -/
def brPassthrough (st : ZoneState) : ZoneState :=
  { st with outV := st.inV }

/-- BR_STEP (R209), one breathing advance. -/
def brStep (p : Params) (zp : ZoneParams) (st : ZoneState) : ZoneState :=
  match st.brState with
  | .startup => brStartup p zp st
  | .rampUp => brRampUp p zp st
  | .topSeg => brTopSeg p zp st
  | .rampDown => brRampDown p zp st
  | .bottomSeg => brBottomSeg p zp st
  | .passthrough => brPassthrough st

/-- runs(d) of R216: how often a sub-effect runs this tick. -/
def driftRuns (d : Word) : Nat :=
  if d.toInt = 0 then 1 else if 0 < d.toInt then 2 else 0

/-- The drift counter after the tick (R216): one step toward 0. -/
def driftAfter (d : Word) : Word :=
  if d.toInt = 0 then 0 else if 0 < d.toInt then fieldWord (d.toInt - 1) else fieldWord (d.toInt + 1)

/-- The drift-adjusted colour cycle of one tick (R34, R41, R216, R217): it writes CC_DRIFT, against the last
sentence of R266's corner cases (DEDUCED, log entry 9). -/
def tickColor (zp : ZoneParams) (st : ZoneState) : ZoneState :=
  applyTimes (driftRuns st.ccDrift) (ccStep zp) { st with ccDrift := driftAfter st.ccDrift }

/-- The forced saturation of one tick (R217). -/
def tickSaturation (zp : ZoneParams) (st : ZoneState) : ZoneState :=
  { st with outS := if zp.ccEn then fieldWord one else st.inS }

/-- The drift-adjusted breathing of one tick (R34, R41, R216, R217): it writes BR_DRIFT, against the last
sentence of R266's corner cases (DEDUCED, log entry 9). -/
def tickBreath (p : Params) (zp : ZoneParams) (st : ZoneState) : ZoneState :=
  applyTimes (driftRuns st.brDrift) (brStep p zp) { st with brDrift := driftAfter st.brDrift }

/-- The output colour of a zone: HSV2RGB of its output HSV (R40, R217). -/
def outputRgb (st : ZoneState) : Rgb := hsvToRgb st.outH.toInt st.outS.toInt st.outV.toInt

/-- The resolution of one tick (R217). -/
def tickResolve (st : ZoneState) : ZoneState := { st with outRgb := outputRgb st }

/-- What TICK makes of a zone's state record (R217). -/
def tickState (p : Params) (zn : Zone) : ZoneState :=
  tickResolve (tickBreath p zn.par (tickSaturation zn.par (tickColor zn.par zn.st)))

/-- TICK z (R217). No field value faults. -/
def execTick (z : Byte) (s : State) : Host.Outcome State Fault Refusal :=
  checkZone (.tick z) z s <|
    (s.setZoneSt z (tickState s.params (s.zone z))).setY 0
      (pack (tickState s.params (s.zone z)).outRgb)

end Sys2Proof.Machine
end

