-- ==== Sys2Proof/Machine/FixedPoint.lean ====
section
/-! DEFINITION. The fixed-point family: SAT, SHR, MUL and DIV (40_fixed_point.md). -/

namespace Sys2Proof.Machine

/-- SAT's result (R102): x clamped to -B..B. -/
def satResult (sg : Signedness) (w : Width) (a0 a1 : DWord) : Int :=
  clamp (operand sg w a0) (-(boundOperand w a1)) (boundOperand w a1)

/-- SAT (R102). No value of x or B faults. -/
def execSat (sg : Signedness) (w : Width) (s : State) : Host.Outcome State Fault Refusal :=
  .next (s.setY 0 (resultWord (satResult sg w s.a[0] s.a[1])))

/-- The right shift of R106 under a rounding mode: the identity for n = 0 under every mode. -/
def shiftRight (rm : Rounding) (x : Int) (n : Nat) : Int :=
  match rm with
  | .rd => shrFloor x n
  | .ru => shrCeil x n
  | .rn => shrRound x n

/-- SHR (R103). SH at or above N is legal. -/
def execShr (sg : Signedness) (w : Width) (rm : Rounding) (sh : BitVec 6) (s : State) :
    Host.Outcome State Fault Refusal :=
  .next (s.setY 0 (resultWord (shiftRight rm (operand sg w s.a[0]) sh.toNat)))

/-- s = FA + FB - FR of R104, at least 0 in a legal MUL. -/
def mulShift (fa fb fr : BitVec 6) : Nat := fa.toNat + fb.toNat - fr.toNat

/-- MUL's result (R104): the exact product, rescaled by a right shift. -/
def mulResult (sg : Signedness) (w : Width) (rm : Rounding) (fa fb fr : BitVec 6) (a0 a1 : DWord) :
    Int :=
  shiftRight rm (operand sg w a0 * operand sg w a1) (mulShift fa fb fr)

/-- MUL (R104). No operand value faults; a term that no legal word encodes takes ILLEGAL_CMD (R82, R83). -/
def execMul (sg : Signedness) (w : Width) (rm : Rounding) (fa fb fr : BitVec 6) (s : State) :
    Host.Outcome State Fault Refusal :=
  if (Instr.mul sg w rm fa fb fr).wellFormed then
    .next (s.setY 0 (resultWord (mulResult sg w rm fa fb fr s.a[0] s.a[1])))
  else .next (raiseBy .illegalCmd (.mul sg w rm fa fb fr) s)

/-- s = FA + N - FB - FR of R105, at least 0 in a legal DIV. -/
def divShift (w : Width) (fa fb fr : BitVec 6) : Nat :=
  fa.toNat + w.bits - (fb.toNat + fr.toNat)

/-- The rounding of a quotient num / den with den > 0 (R105): RN to nearest with ties toward plus infinity,
else floor. -/
def roundQuotient (rm : Rounding) (num den : Int) : Int :=
  match rm with
  | .rn => (2 * num + den) / (2 * den)
  | .rd => num / den
  | .ru => num / den

/-- The exact quotient (a * 2^N) / (b * 2^s) of R105, its denominator made positive, rounded once. -/
def quotient (w : Width) (rm : Rounding) (a b : Int) (sh : Nat) : Int :=
  if b * 2 ^ sh < 0 then roundQuotient rm (-(a * 2 ^ w.bits)) (-(b * 2 ^ sh))
  else roundQuotient rm (a * 2 ^ w.bits) (b * 2 ^ sh)

/-- Whether a signed quotient lies outside 2N bits (R105). -/
def quotientOverflows (sg : Signedness) (w : Width) (r : Int) : Bool :=
  match sg with
  | .signed => !(decide (-(2 ^ (2 * w.bits - 1)) ≤ r) && decide (r ≤ 2 ^ (2 * w.bits - 1) - 1))
  | .unsigned => false

/-- DIV's result before the range check (R105). -/
def divResult (sg : Signedness) (w : Width) (rm : Rounding) (fa fb fr : BitVec 6) (a0 a1 : DWord) :
    Int :=
  quotient w rm (operand sg w a0) (operand sg w a1) (divShift w fa fb fr)

/-- DIV (R105): DIV_ZERO for b = 0, DIV_OVERFLOW for a signed quotient outside 2N bits; a term that no legal
word encodes takes ILLEGAL_CMD (R82, R83). -/
def execDiv (sg : Signedness) (w : Width) (rm : Rounding) (fa fb fr : BitVec 6) (s : State) :
    Host.Outcome State Fault Refusal :=
  if (Instr.div sg w rm fa fb fr).wellFormed then
    if operand sg w s.a[1] = 0 then .next (raiseBy .divZero (.div sg w rm fa fb fr) s)
    else if quotientOverflows sg w (divResult sg w rm fa fb fr s.a[0] s.a[1]) then
      .next (raiseBy .divOverflow (.div sg w rm fa fb fr) s)
    else .next (s.setY 0 (resultWord (divResult sg w rm fa fb fr s.a[0] s.a[1])))
  else .next (raiseBy .illegalCmd (.div sg w rm fa fb fr) s)

end Sys2Proof.Machine
end

