-- ==== Sys2Proof/Machine/Gamma.lean ====
section
/-! DEFINITION. The gamma engine: GAM8, GAM16 and GAMRGB (41_gamma.md). -/

namespace Sys2Proof.Machine

/-- The 8-bit table path (R130). -/
def gamma8 (p : Params) (x : Byte) : Byte := p.gamma8Table[x.toNat]

/-- Normalisation (R132): xn = floor(x * ONE / 65535). -/
def gammaNormalise (x : Int) : Int := x * one / 65535

/-- The terms of the series from one power of u on (R133): each is rmul27(coefficient, u^k), and each power
is the last one times u, rounded. -/
def seriesFrom (u : Int) : List Word → Int → Int
  | [], _ => 0
  | c :: rest, pw => rmul27 c.toInt pw + seriesFrom u rest (rmul27 pw u)

/-- The series p of R133: the first K = GAMMA_ORDER terms, starting from u^0 = ONE. -/
def gammaSeries (p : Params) (u : Int) : Int :=
  seriesFrom u (p.gammaCoef.toList.take p.gammaOrder) one

/-- y of R134: the series times x^2, clamped to [0, ONE]. -/
def gammaPower (p : Params) (xn : Int) : Int :=
  clamp (rmul27 (gammaSeries p (xn - one)) (rmul27 xn xn)) 0 one

/-- G16(x): R132 to R134 in order. -/
def gamma16 (p : Params) (x : Half) : Half :=
  channel (shrRound (gammaPower p (gammaNormalise x.toNat) * 65535) 27)

/-- The batch variant (R136): the 16-bit path on each channel. -/
def gammaRgb (p : Params) (c : Rgb) : Rgb where
  r := gamma16 p c.r
  g := gamma16 p c.g
  b := gamma16 p c.b

/-- GAM8 (R130). -/
def execGam8 (s : State) : Host.Outcome State Fault Refusal :=
  .next (s.setY 0 ((gamma8 s.params (sample8 s.a[0])).setWidth 64))

/-- GAM16 (R135). -/
def execGam16 (s : State) : Host.Outcome State Fault Refusal :=
  .next (s.setY 0 ((gamma16 s.params (sample16 s.a[0])).setWidth 64))

/-- GAMRGB (R136). -/
def execGamrgb (s : State) : Host.Outcome State Fault Refusal :=
  .next (s.setY 0 (pack (gammaRgb s.params (unpack s.a[0]))))

end Sys2Proof.Machine
end

