-- ==== Sys2Proof/Machine/Records.lean ====
section
/-! DEFINITION. Initialisation and the record accessors: INIT, GETPAR, SETPAR, GETST and SETST
(45_host_records.md). -/

namespace Sys2Proof.Machine

/-- The codes of BR_STATE (R36). -/
def brStateCode : BrState → Word
  | .startup => 0
  | .rampUp => 1
  | .topSeg => 2
  | .rampDown => 3
  | .bottomSeg => 4
  | .passthrough => 5

/-- The state a 32-bit code names (R36); codes above 5 name none. -/
def brStateOf (c : Word) : Option BrState :=
  match c.toNat with
  | 0 => some .startup
  | 1 => some .rampUp
  | 2 => some .topSeg
  | 3 => some .rampDown
  | 4 => some .bottomSeg
  | 5 => some .passthrough
  | _ => none

/-- RB2 of the PARAMS image (R261): the five flags, bits [31:5] 0. -/
def flagWord (zp : ZoneParams) : Word :=
  0#27 ++ BitVec.ofBool zp.brCubicEn ++ BitVec.ofBool zp.brBotEn ++
    BitVec.ofBool zp.brTopEn ++ BitVec.ofBool zp.brEn ++ BitVec.ofBool zp.ccEn

/-- The PARAMS image (R261); unused bits and words are 0. -/
def paramsImage (zp : ZoneParams) : Vector Word 16 :=
  #v[zp.ccPeriod, zp.ccSlope, flagWord zp, zp.brPeriod, zp.brRamp, zp.brTop, zp.brBot, zp.brSlope,
     0, 0, 0, 0, 0, 0, 0, 0]

/-- The fields of ZP read from RB0 to RB7 (R261, R264); RB2 bits [31:5] and RB8 to RB15 are not read. -/
def paramsOfImage (rb : Vector Word 16) : ZoneParams where
  ccPeriod := rb[0]
  ccSlope := rb[1]
  ccEn := rb[2].getLsbD 0
  brPeriod := rb[3]
  brRamp := rb[4]
  brTop := rb[5]
  brBot := rb[6]
  brSlope := rb[7]
  brEn := rb[2].getLsbD 1
  brTopEn := rb[2].getLsbD 2
  brBotEn := rb[2].getLsbD 3
  brCubicEn := rb[2].getLsbD 4

/-- The STATE image (R262); unused bits and words are 0. -/
def stateImage (st : ZoneState) : Vector Word 16 :=
  #v[st.ccIdx, st.brTick, st.brSeg, brStateCode st.brState, st.inH, st.inS, st.inV, st.outH, st.outS,
     st.outV, st.outRgb.g ++ st.outRgb.r, 0#16 ++ st.outRgb.b, st.ccDrift, st.brDrift, 0, 0]

/-- The fields of ZS read from RB0 to RB13 (R262, R266), with the breathing state RB3 names. -/
def stateOfImage (rb : Vector Word 16) (bs : BrState) : ZoneState where
  ccIdx := rb[0]
  brTick := rb[1]
  brSeg := rb[2]
  brState := bs
  inH := rb[4]
  inS := rb[5]
  inV := rb[6]
  outH := rb[7]
  outS := rb[8]
  outV := rb[9]
  outRgb := { r := rb[10].extractLsb' 0 16, g := rb[10].extractLsb' 16 16, b := rb[11].extractLsb' 0 16 }
  ccDrift := rb[12]
  brDrift := rb[13]

/-- INIT (R260): every zone record and Y0 to Y3 at 0; A, RB and STATUS keep their values. -/
def execInit (s : State) : Host.Outcome State Fault Refusal :=
  .next { s.clearZones with y := Vector.replicate 4 0 }

/-- GETPAR z (R263). -/
def execGetpar (z : Byte) (s : State) : Host.Outcome State Fault Refusal :=
  checkZone (.getpar z) z s <| s.setRecordBuffer (paramsImage (s.zone z).par)

/-- SETPAR z (R264). No derivation, and no field value is refused. -/
def execSetpar (z : Byte) (s : State) : Host.Outcome State Fault Refusal :=
  checkZone (.setpar z) z s <| s.setZonePar z (paramsOfImage s.rb)

/-- GETST z (R265). -/
def execGetst (z : Byte) (s : State) : Host.Outcome State Fault Refusal :=
  checkZone (.getst z) z s <| s.setRecordBuffer (stateImage (s.zone z).st)

/-- SETST z (R266). BAD_RECORD when RB3 names no breathing state, and then no field is written. -/
def execSetst (z : Byte) (s : State) : Host.Outcome State Fault Refusal :=
  checkZone (.setst z) z s <|
    match brStateOf s.rb[3] with
    | none => raiseBy .badRecord (.setst z) s
    | some bs => s.setZoneSt z (stateOfImage s.rb bs)

end Sys2Proof.Machine
end

