-- ==== Sys2Proof/Machine/Dispatch.lean ====
section
/-! DEFINITION. The effect of each legal command on a unit whose STATUS.FAULT is 0. The refusal of commands
while a fault is recorded (R284) comes before decoding, in `performCommand`. -/

namespace Sys2Proof.Machine

def exec (i : Instr) (s : State) : Host.Outcome State Fault Refusal :=
  match i with
  | .init => Sys2Proof.Machine.execInit s
  | .sat sg w => Sys2Proof.Machine.execSat sg w s
  | .shr sg w rm sh => Sys2Proof.Machine.execShr sg w rm sh s
  | .mul sg w rm fa fb fr => Sys2Proof.Machine.execMul sg w rm fa fb fr s
  | .div sg w rm fa fb fr => Sys2Proof.Machine.execDiv sg w rm fa fb fr s
  | .gam8 => Sys2Proof.Machine.execGam8 s
  | .gam16 => Sys2Proof.Machine.execGam16 s
  | .gamrgb => Sys2Proof.Machine.execGamrgb s
  | .rgb2hsv => Sys2Proof.Machine.execRgb2hsv s
  | .hsv2rgb => Sys2Proof.Machine.execHsv2rgb s
  | .calboost => Sys2Proof.Machine.execCalboost s
  | .ccreset z => Sys2Proof.Machine.execCcreset z s
  | .ccrecalc z => Sys2Proof.Machine.execCcrecalc z s
  | .brreset z => Sys2Proof.Machine.execBrreset z s
  | .brpass z => Sys2Proof.Machine.execBrpass z s
  | .tick z => Sys2Proof.Machine.execTick z s
  | .getpar z => Sys2Proof.Machine.execGetpar z s
  | .setpar z => Sys2Proof.Machine.execSetpar z s
  | .getst z => Sys2Proof.Machine.execGetst z s
  | .setst z => Sys2Proof.Machine.execSetst z s

end Sys2Proof.Machine
end

