-- ==== Sys2Proof/Machine/Window.lean ====
section
/-! DEFINITION. The register window: its map (R51), host reads and writes (R52 to R57), the command register
(R24, R55, R284), and what one host event does. -/

namespace Sys2Proof.Machine

/-- The window is 256 bytes, offsets 0x00 to 0xFF (R50). -/
def windowBytes : Nat := 0x100

/-- The byte offset of an absolute address from FXLED_BASE, when it lies in the window (R50, R298). -/
def windowOffset (p : Params) (addr : Nat) : Option Nat :=
  if p.fxledBase ≤ addr ∧ addr < p.fxledBase + windowBytes then some (addr - p.fxledBase) else none

/-- The register window map (R51), for an offset that is a multiple of 4. -/
def windowReg (off : Nat) : WindowReg :=
  if off = 0x00 then .cmd
  else if off = 0x04 then .status
  else if off = 0x08 then .cfgid
  else if 0x10 ≤ off ∧ off < 0x30 then
    .operandHalf (Fin.ofNat 4 ((off - 0x10) / 8)) (decide (off % 8 = 4))
  else if 0x30 ≤ off ∧ off < 0x50 then
    .resultHalf (Fin.ofNat 4 ((off - 0x30) / 8)) (decide (off % 8 = 4))
  else if 0x80 ≤ off ∧ off < 0xC0 then .recordWord (Fin.ofNat 16 ((off - 0x80) / 4))
  else .reserved

/-- CFGID (R26): NUM_ZONES in bits [8:0], GAMMA_ORDER in bits [11:9], the rest 0. -/
def cfgidWord (p : Params) : Word :=
  0#20 ++ BitVec.ofNat 3 p.gammaOrder ++ BitVec.ofNat 9 p.numZones

/-- What a host read of a window register returns (R51, R53). CMD and reserved offsets read 0. -/
def readReg (s : State) : WindowReg → Word
  | .cmd => 0
  | .status => statusWord s.status
  | .cfgid => cfgidWord s.params
  | .operandHalf i hi => halfOf hi s.a[i]
  | .resultHalf i hi => halfOf hi s.y[i]
  | .recordWord i => s.rb[i]
  | .reserved => 0

/-- Whether a host access is a 32-bit access at a multiple of 4 (R52). -/
def aligned32 (size : AccessSize) (off : Nat) : Bool :=
  decide (size = .word) && decide (off % 4 = 0)

/-- A write of word w to CMD (R24, R55). While STATUS.FAULT = 1 it is refused: it performs nothing, raises
nothing and changes nothing (R284). An illegal word raises ILLEGAL_CMD (R81). -/
def performCommand (w : Word) (s : State) : Host.Outcome State Fault Refusal :=
  if s.status.fault then .next s
  else
    match decode w with
    | .ok i => exec i s
    | .error _ => .next (raiseIllegalWord w s)

/-- A legal host write to a window register (R51, R53, R56): STATUS, CFGID, Y and the reserved offsets
ignore it, and only a write to CMD does more than store (R57). -/
def writeReg (s : State) (data : Word) : WindowReg → Host.Outcome State Fault Refusal
  | .cmd => performCommand data s
  | .status => .next s
  | .cfgid => .next s
  | .operandHalf i hi => .next (s.setA i (withHalf hi s.a[i] data))
  | .resultHalf _ _ => .next s
  | .recordWord i => .next (s.setRb i data)
  | .reserved => .next s

/-- A host load (R52): the reply is the register's value, and 0 with BUS_ERROR for a bad access. -/
def hostRead (size : AccessSize) (off : Nat) (s : State) : State :=
  if aligned32 size off then { s with reply := some (readReg s (windowReg off)) }
  else { raiseBusError s with reply := some 0 }

/-- A host store (R52): a bad access stores nothing and raises BUS_ERROR, at CMD too. -/
def hostWrite (size : AccessSize) (off : Nat) (data : Word) (s : State) :
    Host.Outcome State Fault Refusal :=
  if aligned32 size off then writeReg { s with reply := none } data (windowReg off)
  else .next (raiseBusError { s with reply := none })

/-- One event at the unit: a host access inside the window, or the platform's reset. An access outside the
window is not an address of this unit. -/
def hostEvent (e : HostEvent) (s : State) : Host.Outcome State Fault Refusal :=
  match e with
  | .read size off => if off < windowBytes then .next (hostRead size off s) else .fault .outsideWindow
  | .write size off data =>
    if off < windowBytes then hostWrite size off data s else .fault .outsideWindow
  | .reset => .next (platformReset s)

/-- The next event taken from the pending ones, in the host's program order (R59). With none pending the unit
waits and nothing changes (R296, R311). -/
def stepBus (s : State) : Host.Outcome State Fault Refusal :=
  match s.bus with
  | [] => .next s
  | e :: rest => hostEvent e { s with bus := rest }

/-- The host's write of a command word to CMD as the next event, before those already pending. -/
def withCommand (w : Word) (s : State) : State :=
  { s with bus := .write .word 0x00 w :: s.bus }

end Sys2Proof.Machine
end

