-- ==== Sys2Proof/Machine/Step.lean ====
section
/-! DEFINITION. One step of the unit, and the placing of a command word where the next step takes it. -/

namespace Sys2Proof.Machine

/-- One step: the unit accepts the host's next access, or waits (R3, R55, R59). -/
def step (s : State) : Host.Outcome State Fault Refusal := stepBus s

/-- FXLED fetches nothing (R20, R62): a command arrives as the host's write to CMD. The word of the table's
row becomes that write, the very next event. -/
def State.withFetchWord (s : State) (nbits w : Nat) : State :=
  withCommand (tableWord nbits w) s

end Sys2Proof.Machine
end

