-- ==== Sys2Proof/Machine/HostProgram.lean ====
section
/-! DEFINITION. How a host drives the unit: the pseudo-commands of R87, the host program notation of R88 as
runs of accesses, and the assembler text of R86. -/

namespace Sys2Proof.Machine

/-- `MULQ27` (R87): Q4.27 times Q4.27 to Q4.27, rounded. -/
def mulq27 : Instr := .mul .signed .w32 .rn 27 27 27

/-- `DIVQ27` (R87): Q4.27 divided by Q4.27 to Q4.27, rounded. -/
def divq27 : Instr := .div .signed .w32 .rn 27 27 27

/-- `RSHR.<t> sh` (R87). -/
def rshr (sg : Signedness) (w : Width) (sh : BitVec 6) : Instr := .shr sg w .rn sh

/-- `FSHR.<t> sh` (R87). -/
def fshr (sg : Signedness) (w : Width) (sh : BitVec 6) : Instr := .shr sg w .rd sh

/-- `CSHR.<t> sh` (R87). -/
def cshr (sg : Signedness) (w : Width) (sh : BitVec 6) : Instr := .shr sg w .ru sh

/-- `TICKALL` (R87): TICK 0 to TICK NUM_ZONES-1, in that order. -/
def tickAll (p : Params) : List Instr :=
  (List.range p.numZones).map fun z => .tick (BitVec.ofNat 8 z)

/-- `CMD <command>` (R88): one write of the command's word to CMD. -/
def cmdAccess (i : Instr) : HostEvent := .write .word 0x00 (encode i)

/-- `WR Ai, v` (R88): two 32-bit writes, LO then HI. -/
def wrA (i : Fin 4) (v : DWord) : List HostEvent :=
  [.write .word (0x10 + 8 * i.val) (halfOf false v), .write .word (0x14 + 8 * i.val) (halfOf true v)]

/-- `WR RBi, v` (R88): one 32-bit write. -/
def wrRb (i : Fin 16) (v : Word) : HostEvent := .write .word (0x80 + 4 * i.val) v

/-- `RD Yi` (R88): two 32-bit reads. -/
def rdY (i : Fin 4) : List HostEvent :=
  [.read .word (0x30 + 8 * i.val), .read .word (0x34 + 8 * i.val)]

/-- `RD RBi` (R88). -/
def rdRb (i : Fin 16) : HostEvent := .read .word (0x80 + 4 * i.val)

/-- `RD STATUS` (R88). -/
def rdStatus : HostEvent := .read .word 0x04

/-- The type suffix `<t>` (R86). -/
def typeText (sg : Signedness) (w : Width) : String :=
  (match sg with | .signed => "S" | .unsigned => "U") ++
  (match w with | .w16 => "16" | .w32 => "32" | .w64 => "64")

/-- The rounding suffix `<rm>` (R86). -/
def roundingText : Rounding → String
  | .rd => "RD"
  | .ru => "RU"
  | .rn => "RN"

/-- The fields `fa, fb, fr` (R86). -/
def fieldsText (fa fb fr : BitVec 6) : String :=
  toString fa.toNat ++ ", " ++ toString fb.toNat ++ ", " ++ toString fr.toNat

/-- A mnemonic followed by its zone number (R86). -/
def zoneText (m : String) (z : Byte) : String := m ++ " " ++ toString z.toNat

/-- The assembler text of a command (R86). -/
def assemblerText : Instr → String
  | .init => "INIT"
  | .sat sg w => "SAT." ++ typeText sg w
  | .shr sg w rm sh => "SHR." ++ typeText sg w ++ "." ++ roundingText rm ++ " " ++ toString sh.toNat
  | .mul sg w rm fa fb fr =>
    "MUL." ++ typeText sg w ++ "." ++ roundingText rm ++ " " ++ fieldsText fa fb fr
  | .div sg w rm fa fb fr =>
    "DIV." ++ typeText sg w ++ "." ++ roundingText rm ++ " " ++ fieldsText fa fb fr
  | .gam8 => "GAM8"
  | .gam16 => "GAM16"
  | .gamrgb => "GAMRGB"
  | .rgb2hsv => "RGB2HSV"
  | .hsv2rgb => "HSV2RGB"
  | .calboost => "CALBOOST"
  | .ccreset z => zoneText "CCRESET" z
  | .ccrecalc z => zoneText "CCRECALC" z
  | .brreset z => zoneText "BRRESET" z
  | .brpass z => zoneText "BRPASS" z
  | .tick z => zoneText "TICK" z
  | .getpar z => zoneText "GETPAR" z
  | .setpar z => zoneText "SETPAR" z
  | .getst z => zoneText "GETST" z
  | .setst z => zoneText "SETST" z

end Sys2Proof.Machine
end

