-- ==== Sys2Proof/Safety.lean ====
section
/-! DEFINITION. What counts as a good state and a safe run, and the terms the claims use: rounding as
inequalities, the spec's tables written as relations, and runs of commands through the window. -/

namespace Sys2Proof.Machine

/-- Which causes a recorded FAULT_OPC admits (R282): the OPC of a command that can raise the cause. -/
def causeAdmits (c : Cause) (opc : Byte) : Bool :=
  match c with
  | .none => decide (opc = 0)
  | .illegalCmd => true
  | .busError => decide (opc = 0)
  | .badZone => isFormatZ opc
  | .badRecord => decide (opc = 0x63)
  | .periodZero => decide (opc = 0x50) || decide (opc = 0x51) || decide (opc = 0x52)
  | .divZero => decide (opc = 0x13)
  | .divOverflow => decide (opc = 0x13)

/-- What STATUS can hold (R25, R281 to R283): a cause exactly when FAULT = 1, an OPC the cause admits, and a
zone only with a format-Z opcode. -/
def Status.consistent (st : Status) : Bool :=
  (st.fault == decide (st.cause ≠ .none)) && causeAdmits st.cause st.faultOpc &&
  (isFormatZ st.faultOpc || decide (st.faultZone = 0))

/-- The invariant of every unit that is built from a well-formed parameter set (R12): the parameters stay
well formed, the store holds exactly NUM_ZONES zones (R28), and STATUS is consistent. -/
def State.Inv (s : State) : Prop :=
  s.params.wellFormed = true ∧ s.zones.length = s.params.numZones ∧ s.status.consistent = true

/-- An event that the unit's interface has: an access inside the window, or the reset (R50, R298). -/
def HostEvent.inWindow : HostEvent → Bool
  | .read _ off => decide (off < windowBytes)
  | .write _ off _ => decide (off < windowBytes)
  | .reset => true

/-- A safe run: every pending event is one the unit's interface has. -/
def State.safeBus (s : State) : Bool := s.bus.all HostEvent.inWindow

/-- Rounding to nearest, ties toward plus infinity, as inequalities: r is num / den rounded, den > 0 (R15). -/
def Nearest (num den r : Int) : Prop :=
  (2 * r - 1) * den ≤ 2 * num ∧ 2 * num < (2 * r + 1) * den

/-- r is num / den rounded under a mode of R78, den > 0: RD the floor, RU the ceiling, RN the nearest. -/
def RoundsTo (rm : Rounding) (num den r : Int) : Prop :=
  match rm with
  | .rd => r * den ≤ num ∧ num < (r + 1) * den
  | .ru => (r - 1) * den < num ∧ num ≤ r * den
  | .rn => Nearest num den r

/-- r is in the n-bit range of its signedness (R107, R108). -/
def FitsWidth (sg : Signedness) (n : Nat) (r : Int) : Prop :=
  match sg with
  | .signed => -(2 ^ (n - 1)) ≤ r ∧ r < 2 ^ (n - 1)
  | .unsigned => 0 ≤ r ∧ r < 2 ^ n

/-- u^k as the gamma series forms it (R133): repeated rmul27 from u^0 = ONE. -/
def seriesPower (u : Int) : Nat → Int
  | 0 => one
  | k + 1 => rmul27 (seriesPower u k) u

/-- A row of the breathing transition table (R218). -/
structure BreathRow where
  next : BrState
  seg : Nat
  tick : Nat
  /-- `some n`: OUT_V is bright(n); `none`: OUT_V is IN_V. -/
  level : Option Nat
  deriving DecidableEq, Repr

/-- n of R218's ramp-up rows (R211). -/
def tableUp (zp : ZoneParams) (st : ZoneState) : Nat :=
  min (min st.brSeg.toNat zp.brRamp.toNat + 1) zp.brRamp.toNat

/-- n of R218's ramp-down rows (R213). -/
def tableDown (zp : ZoneParams) (st : ZoneState) : Nat :=
  min st.brSeg.toNat zp.brRamp.toNat - 1

/-- The breathing transition table, row by row (R218). -/
def breathTable (zp : ZoneParams) (st : ZoneState) : BreathRow :=
  let rp := zp.brRamp.toNat
  let seg := st.brSeg.toNat
  let tick := st.brTick.toNat
  match st.brState with
  | .startup => ⟨.rampUp, 0, 0, some 0⟩
  | .rampUp =>
    if tableUp zp st < rp then ⟨.rampUp, tableUp zp st, tick, some (tableUp zp st)⟩
    else if zp.brTop ≠ 0 then ⟨.topSeg, rp, 0, some rp⟩
    else ⟨.rampDown, rp, tick, some rp⟩
  | .topSeg =>
    if zp.brEn = false then ⟨.topSeg, seg, tick, some rp⟩
    else if tick + 1 < zp.brTop.toNat then ⟨.topSeg, seg, tick + 1, some rp⟩
    else ⟨.rampDown, rp, 0, some rp⟩
  | .rampDown =>
    if 0 < tableDown zp st then ⟨.rampDown, tableDown zp st, tick, some (tableDown zp st)⟩
    else if zp.brBot ≠ 0 then ⟨.bottomSeg, 0, 0, some 0⟩
    else ⟨.rampUp, 0, 0, some 0⟩
  | .bottomSeg =>
    if zp.brEn = false then ⟨.bottomSeg, seg, tick, some 0⟩
    else if tick + 1 < zp.brBot.toNat then ⟨.bottomSeg, seg, tick + 1, some 0⟩
    else ⟨.rampUp, 0, 0, some 0⟩
  | .passthrough => ⟨.passthrough, seg, tick, none⟩

/-- The breathing states of a zone without holds (R219 (a)). -/
def BrState.isRampOnly : BrState → Bool
  | .startup => true
  | .rampUp => true
  | .topSeg => false
  | .rampDown => true
  | .bottomSeg => false
  | .passthrough => false

/-- Where BR_STEP stands in its cycle: the fields R219 (b) says repeat. -/
def breathPhase (st : ZoneState) : BrState × Word × Word := (st.brState, st.brSeg, st.brTick)

/-- The commands of a list performed through the window, one CMD write each, with nothing else pending. -/
def runCommands (is : List Instr) (s : State) : Host.Outcome State Fault Refusal :=
  Host.Core.run Sys2Proof.core is.length { s with bus := is.map cmdAccess }

/-- The STATUS a fault of a legal command leaves (R283). -/
def faulted (c : Cause) (i : Instr) : Status where
  fault := true
  cause := c
  faultOpc := opcodeOf i
  faultZone := zoneOf i

/-- The causes a legal command can raise (R282). -/
def canRaise (i : Instr) (c : Cause) : Prop :=
  match i with
  | .init => False
  | .sat _ _ => False
  | .shr _ _ _ _ => False
  | .mul _ _ _ _ _ _ => False
  | .div _ _ _ _ _ _ => c = .divZero ∨ c = .divOverflow
  | .gam8 => False
  | .gam16 => False
  | .gamrgb => False
  | .rgb2hsv => False
  | .hsv2rgb => False
  | .calboost => False
  | .ccreset _ => c = .badZone ∨ c = .periodZero
  | .ccrecalc _ => c = .badZone ∨ c = .periodZero
  | .brreset _ => c = .badZone ∨ c = .periodZero
  | .brpass _ => c = .badZone
  | .tick _ => c = .badZone
  | .getpar _ => c = .badZone
  | .setpar _ => c = .badZone
  | .getst _ => c = .badZone
  | .setst _ => c = .badZone ∨ c = .badRecord

/-- The command words that are legal, said by the field tables alone (R72, R73, R75, R80 to R83). -/
def legalWord (w : Word) : Prop :=
  let n := w.toNat
  let opc := n % 2 ^ 8
  let width := n / 2 ^ 9 % 4
  let mode := n / 2 ^ 11 % 4
  let fa := n / 2 ^ 13 % 64
  let fb := n / 2 ^ 19 % 64
  let fr := n / 2 ^ 25 % 64
  (opc ∈ [0x01, 0x20, 0x21, 0x22, 0x30, 0x31, 0x40] ∧ n / 2 ^ 8 = 0) ∨
  (opc ∈ [0x50, 0x51, 0x52, 0x53, 0x54, 0x60, 0x61, 0x62, 0x63] ∧ n / 2 ^ 16 = 0) ∨
  (opc = 0x10 ∧ n / 2 ^ 31 = 0 ∧ width ≠ 3 ∧ mode = 0 ∧ fa = 0 ∧ fb = 0 ∧ fr = 0) ∨
  (opc = 0x11 ∧ n / 2 ^ 31 = 0 ∧ width ≠ 3 ∧ mode ≠ 3 ∧ fb = 0 ∧ fr = 0) ∨
  (opc = 0x12 ∧ n / 2 ^ 31 = 0 ∧ width < 2 ∧ (mode = 0 ∨ mode = 2) ∧ fr ≤ fa + fb) ∨
  (opc = 0x13 ∧ n / 2 ^ 31 = 0 ∧ width < 2 ∧ (mode = 0 ∨ mode = 2) ∧ fb + fr ≤ fa + 16 * (width + 1))

end Sys2Proof.Machine
end

