-- ==== Sys2Proof/Certificates/Slice0/Obligations.lean ====
section
/-! DEFINITION. The statements for the provers. Each docstring names the rules of the spec it formalises. A
statement about what a command does is about `exec`, the effect of a legal command on a unit without a
recorded fault; `StepPerformsTheDecodedCommand` and `FaultedUnitRefusesCommands` carry it to `step`. -/

open Sys2Proof Sys2Proof.Machine

/-! ### Encoding and decoding -/

/-- Decoding an encoded well-formed command gives it back, for every command and every field value
(R72 to R83). -/
def Obligations.DecodeOfEncodeIsTheCommand : Prop :=
  ∀ i : Instr, i.wellFormed = true → decode (encode i) = .ok i

/-- A legal word is the encoding of the command it decodes to, and that command is well formed: no bit of a
legal word is dropped (R70, R72, R73, R75, R77 to R83). -/
def Obligations.EncodeOfDecodeIsTheWord : Prop :=
  ∀ (w : Word) (i : Instr), decode w = .ok i → encode i = w ∧ i.wellFormed = true

/-- A word is legal exactly when its OPC is in the map, its reserved bits are 0 and, for format FX, the field
checks pass (R81, R82, R83, R84). -/
def Obligations.DecodeAcceptsExactlyTheLegalWords : Prop :=
  ∀ w : Word, (∃ i, decode w = .ok i) ↔ legalWord w

/-- The example words of R89, each with its command, and the two illegal ones. -/
def Obligations.ExampleWordsDecode : Prop :=
  decode 0x00000001 = .ok .init ∧
  decode 0x00000110 = .ok (.sat .signed .w16) ∧
  decode 0x00000310 = .ok (.sat .signed .w32) ∧
  decode 0x00008311 = .ok (.shr .signed .w32 .rd 4) ∧
  decode 0x00008B11 = .ok (.shr .signed .w32 .ru 4) ∧
  decode 0x0000B311 = .ok (.shr .signed .w32 .rn 5) ∧
  decode 0x10410012 = .ok (.mul .unsigned .w16 .rd 8 8 8) ∧
  decode 0x1E79F112 = .ok (.mul .signed .w16 .rn 15 15 15) ∧
  decode 0x36DB7312 = .ok (.mul .signed .w32 .rn 27 27 27) ∧
  decode 0x36DB7313 = .ok (.div .signed .w32 .rn 27 27 27) ∧
  decode 0x20000113 = .ok (.div .signed .w16 .rd 0 0 16) ∧
  decode 0x00000154 = .ok (.tick 1) ∧
  decode 0x02000312 = .error .rescale ∧
  decode 0x38DB6312 = .ok (.mul .signed .w32 .rd 27 27 28) ∧
  decode 0x00000000 = .error .opcode

/-! ### The step, the command register and the window -/

/-- A write of a legal word to CMD, on a unit without a fault, performs the command it decodes to (R24, R55).
The step around it takes the access off the pending ones and returns no value to the host. -/
def Obligations.StepPerformsTheDecodedCommand : Prop :=
  ∀ (s : State) (w : Word) (rest : List HostEvent) (i : Instr),
    s.bus = .write .word 0x00 w :: rest → s.status.fault = false → decode w = .ok i →
    step s = exec i { s with bus := rest, reply := none }

/-- A write of an illegal word raises ILLEGAL_CMD and performs nothing else (R81, R283). -/
def Obligations.IllegalWordOnlyRecordsIllegalCmd : Prop :=
  ∀ (s : State) (w : Word) (rest : List HostEvent),
    s.bus = .write .word 0x00 w :: rest → s.status.fault = false → ¬ legalWord w →
    step s = .next { s with
      bus := rest
      reply := none
      status :=
        { fault := true
          cause := .illegalCmd
          faultOpc := BitVec.ofNat 8 (w.toNat % 2 ^ 8)
          faultZone :=
            if w.toNat % 2 ^ 8 ∈ [0x50, 0x51, 0x52, 0x53, 0x54, 0x60, 0x61, 0x62, 0x63] then
              BitVec.ofNat 8 (w.toNat / 2 ^ 8 % 2 ^ 8)
            else 0 } }

/-- While STATUS.FAULT = 1 every write to CMD, of any word, changes nothing of the unit (R284). -/
def Obligations.FaultedUnitRefusesCommands : Prop :=
  ∀ (s : State) (w : Word) (rest : List HostEvent),
    s.bus = .write .word 0x00 w :: rest → s.status.fault = true →
    step s = .next { s with bus := rest, reply := none }

/-- STATUS describes the first fault until a reset: once FAULT = 1, no event but the reset changes STATUS
(R284, R288, R289). -/
def Obligations.StatusKeepsTheFirstFault : Prop :=
  ∀ (s t : State) (e : HostEvent) (rest : List HostEvent),
    s.bus = e :: rest → e ≠ .reset → s.status.fault = true → step s = .next t →
    t.status = s.status

/-- A host access that is not a 32-bit access at a multiple of 4 stores nothing and records BUS_ERROR when no
fault is recorded; a read of that kind returns 0 (R52, R283, R284, R286). -/
def Obligations.BadAccessOnlyRecordsBusError : Prop :=
  ∀ (s : State) (size : AccessSize) (off : Nat) (data : Word) (rest : List HostEvent),
    off < 0x100 → (size ≠ .word ∨ off % 4 ≠ 0) →
    (s.bus = .read size off :: rest →
      step s = .next { s with
        bus := rest
        reply := some 0
        status := if s.status.fault then s.status
          else { fault := true, cause := .busError, faultOpc := 0, faultZone := 0 } }) ∧
    (s.bus = .write size off data :: rest →
      step s = .next { s with
        bus := rest
        reply := none
        status := if s.status.fault then s.status
          else { fault := true, cause := .busError, faultOpc := 0, faultZone := 0 } })

/-- What a 32-bit aligned read returns, offset by offset (R51, R53, R54), and that it changes nothing else
(R57). -/
def Obligations.WindowReadReturnsTheMappedRegister : Prop :=
  ∀ (s : State) (off : Nat) (rest : List HostEvent),
    s.bus = .read .word off :: rest → off < 0x100 → off % 4 = 0 →
    ∃ v : Word, step s = .next { s with bus := rest, reply := some v } ∧
      (off = 0x00 → v = 0) ∧
      (off = 0x04 → v = statusWord s.status) ∧
      (off = 0x08 → v = cfgidWord s.params) ∧
      (∀ i : Fin 4, off = 0x10 + 8 * i.val → v = BitVec.ofNat 32 (s.a[i].toNat % 2 ^ 32)) ∧
      (∀ i : Fin 4, off = 0x14 + 8 * i.val → v = BitVec.ofNat 32 (s.a[i].toNat / 2 ^ 32)) ∧
      (∀ i : Fin 4, off = 0x30 + 8 * i.val → v = BitVec.ofNat 32 (s.y[i].toNat % 2 ^ 32)) ∧
      (∀ i : Fin 4, off = 0x34 + 8 * i.val → v = BitVec.ofNat 32 (s.y[i].toNat / 2 ^ 32)) ∧
      (∀ i : Fin 16, off = 0x80 + 4 * i.val → v = s.rb[i]) ∧
      (off = 0x0C ∨ (0x50 ≤ off ∧ off < 0x80) ∨ 0xC0 ≤ off → v = 0)

/-- A 32-bit aligned write to any offset but CMD completes; afterwards a read of that offset returns the data
where the register is writable, and every other read returns what it did (R51, R53, R56). Nothing but A and
RB can change. -/
def Obligations.WindowWriteChangesOnlyItsRegister : Prop :=
  ∀ (s : State) (off : Nat) (data : Word) (rest : List HostEvent),
    s.bus = .write .word off data :: rest → off < 0x100 → off % 4 = 0 → off ≠ 0x00 →
    ∃ t, step s = .next t ∧
      t = { s with a := t.a, rb := t.rb, bus := rest, reply := none } ∧
      ∀ off', off' < 0x100 → off' % 4 = 0 →
        readReg t (windowReg off') =
          if off' = off ∧ ((0x10 ≤ off ∧ off < 0x30) ∨ (0x80 ≤ off ∧ off < 0xC0)) then data
          else readReg s (windowReg off')

/-- STATUS as it reads: FAULT in bit 0, CAUSE in 7:4, FAULT_OPC in 15:8, FAULT_ZONE in 23:16, and BUSY and
the reserved bits 0 (R25, R281); CFGID: NUM_ZONES in [8:0], GAMMA_ORDER in [11:9], the rest 0 (R26). -/
def Obligations.StatusAndCfgidReadAsTheirFields : Prop :=
  (∀ st : Status, (statusWord st).toNat =
    st.fault.toNat + 2 ^ 4 * (match st.cause with
      | .none => 0 | .illegalCmd => 1 | .busError => 2 | .badZone => 3 | .badRecord => 4
      | .periodZero => 5 | .divZero => 6 | .divOverflow => 7) +
    2 ^ 8 * st.faultOpc.toNat + 2 ^ 16 * st.faultZone.toNat) ∧
  (∀ p : Params, p.wellFormed = true →
    (cfgidWord p).toNat = p.numZones + 2 ^ 9 * p.gammaOrder)

/-- With nothing pending the unit waits and its state persists (R296, R311); a pending event inside the window
always completes, and whatever fault it records the next event is the host's next one: no fault transfers
control to a handler or another level (R283, R297). An access outside the 256-byte window stops the machine by
name. That stop is the model's own choice (log entry 4); the window's size is R50's. -/
def Obligations.StepStopsExactlyOutsideTheWindow : Prop :=
  ∀ s : State,
    (s.bus = [] → step s = .next s) ∧
    ∀ (e : HostEvent) (rest : List HostEvent), s.bus = e :: rest →
      (e.inWindow = true → ∃ t, step s = .next t ∧ t.bus = rest) ∧
      (e.inWindow = false → step s = .fault .outsideWindow)

/-- A run whose accesses all lie in the window never stops: every step answers a next state, and what is left
pending stays inside the window. The stop it rules out is the model's own (log entry 4); that every command
completes is the source's "every operation completes deterministically" (R323). -/
def Obligations.SafeRunNeverStops : Prop :=
  ∀ (n : Nat) (s : State), s.safeBus = true →
    ∃ t, Host.Core.run Sys2Proof.core n s = .next t ∧ t.safeBus = true

/-! ### Reset and the whole machine -/

/-- The platform's reset sets every piece of state to its value of R44, in every state, and keeps the
parameters (R44, R45, R310). That it keeps the accesses the host has not made yet is the model's choice (log
entry 6). -/
def Obligations.ResetZeroesTheUnit : Prop :=
  ∀ (s : State) (rest : List HostEvent), s.bus = .reset :: rest →
    ∃ t, step s = .next t ∧
      (∀ i : Fin 4, t.a[i] = 0) ∧ (∀ i : Fin 4, t.y[i] = 0) ∧ (∀ i : Fin 16, t.rb[i] = 0) ∧
      statusWord t.status = 0 ∧ readReg t .cfgid = cfgidWord s.params ∧ t.params = s.params ∧
      t.zones = List.replicate s.params.numZones Zone.zero ∧ t.bus = rest

/-- A unit built from a well-formed parameter set satisfies the invariant, a set that is not well formed is
refused, and the default set is well formed (R7 to R9, R12). -/
def Obligations.ConstructionRefusesBadParameters : Prop :=
  (∀ p : Params, p.wellFormed = true → ∃ s, State.construct p = .next s ∧ s.Inv ∧ s.params = p) ∧
  (∀ p : Params, p.wellFormed = false → State.construct p = .refused .badParameters) ∧
  State.reset.Inv

/-- Every step keeps the invariant, from every state that has it: the store keeps NUM_ZONES zones, STATUS
stays consistent and the parameters stay well formed; and no command and no reset changes the parameters, in
any state (R12, R28, R45, R281, R282). -/
def Obligations.StepKeepsTheInvariant : Prop :=
  ∀ s t : State, step s = .next t → t.params = s.params ∧ (s.Inv → t.Inv)

/-- A fault is all-or-nothing: a command that changes STATUS changes nothing else, and a legal command that
records a fault records one that R282 lists for it, with its own OPC and ZONE (R282, R283, R287). -/
def Obligations.FaultChangesNothingButStatus : Prop :=
  ∀ (i : Instr) (s t : State), i.wellFormed = true → s.status.fault = false → exec i s = .next t →
    t.status ≠ s.status →
    ∃ c, canRaise i c ∧ t = { s with status := faulted c i }

/-- Every command of format Z whose zone id is not below NUM_ZONES raises BAD_ZONE and changes nothing else,
whatever its other operands are (R74, R200, R283). -/
def Obligations.BadZoneComesFirst : Prop :=
  ∀ (s : State) (z : Byte) (i : Instr), s.params.numZones ≤ z.toNat → s.status.fault = false →
    i ∈ [.ccreset z, .ccrecalc z, .brreset z, .brpass z, .tick z, .getpar z, .setpar z, .getst z,
      .setst z] →
    exec i s = .next { s with status := faulted .badZone i }

/-- No command writes an operand register, the pending accesses or the reply, and only GETPAR and GETST write
the record buffer (R23, R44, R85, R260, R313). That INIT is no exception for the operand registers, against a
sentence of 10_state.md, is the model's choice (log entry 9). -/
def Obligations.CommandsKeepTheHostRegisters : Prop :=
  ∀ (i : Instr) (s t : State), exec i s = .next t →
    t.a = s.a ∧ t.bus = s.bus ∧ t.reply = s.reply ∧
    (t.rb = s.rb ∨ ∃ z, i = .getpar z ∨ i = .getst z)

/-- A command for zone z reads and writes no other zone's records: in two units that differ only in the
records of other zones it gives results that differ only there, and those records stay (R28, R294). -/
def Obligations.ZonesDoNotInterfere : Prop :=
  ∀ (i : Instr) (s s' t t' : State), isFormatZ (opcodeOf i) = true →
    s' = { s with zones := s'.zones } → s.zones.length = s'.zones.length →
    s.zone (zoneOf i) = s'.zone (zoneOf i) → exec i s = .next t → exec i s' = .next t' →
    t' = { t with zones := t'.zones } ∧ t.zone (zoneOf i) = t'.zone (zoneOf i) ∧
    ∀ z : Byte, z ≠ zoneOf i → t.zone z = s.zone z ∧ t'.zone z = s'.zone z

/-- A field of a zone's records changes only by a command that its row of the record tables lists, for that
zone, or by INIT (R29, R33, R34, R38, R41, R260): the colour-cycle configuration by CCRESET, CCRECALC and
SETPAR; the breathing configuration by BRRESET and SETPAR; the three configuration flags by SETPAR; CC_IDX by
CCRESET, CCRECALC, TICK and SETST; BR_TICK and BR_SEG by BRRESET, TICK and SETST; BR_STATE by those and BRPASS;
the input HSV by SETST; the output HSV, the output RGB and the drift counters by TICK and SETST. That TICK is
among the writers of the drift counters, against a sentence of 45_host_records.md, is the model's choice (log
entry 9). -/
def Obligations.RecordFieldsChangeOnlyByTheirWriters : Prop :=
  ∀ (i : Instr) (s t : State) (z : Byte) (p p' : ZoneParams) (st st' : ZoneState),
    exec i s = .next t → s.zone z = { par := p, st := st } → t.zone z = { par := p', st := st' } →
    ((p'.ccPeriod, p'.ccSlope, p'.ccEn) ≠ (p.ccPeriod, p.ccSlope, p.ccEn) →
      i ∈ [.init, .ccreset z, .ccrecalc z, .setpar z]) ∧
    ((p'.brPeriod, p'.brRamp, p'.brTop, p'.brBot, p'.brSlope, p'.brEn) ≠
        (p.brPeriod, p.brRamp, p.brTop, p.brBot, p.brSlope, p.brEn) →
      i ∈ [.init, .brreset z, .setpar z]) ∧
    ((p'.brTopEn, p'.brBotEn, p'.brCubicEn) ≠ (p.brTopEn, p.brBotEn, p.brCubicEn) →
      i ∈ [.init, .setpar z]) ∧
    (st'.ccIdx ≠ st.ccIdx → i ∈ [.init, .ccreset z, .ccrecalc z, .tick z, .setst z]) ∧
    ((st'.brTick, st'.brSeg) ≠ (st.brTick, st.brSeg) →
      i ∈ [.init, .brreset z, .tick z, .setst z]) ∧
    (st'.brState ≠ st.brState → i ∈ [.init, .brreset z, .brpass z, .tick z, .setst z]) ∧
    ((st'.inH, st'.inS, st'.inV) ≠ (st.inH, st.inS, st.inV) → i ∈ [.init, .setst z]) ∧
    ((st'.outH, st'.outS, st'.outV, st'.outRgb) ≠ (st.outH, st.outS, st.outV, st.outRgb) →
      i ∈ [.init, .tick z, .setst z]) ∧
    ((st'.ccDrift, st'.brDrift) ≠ (st.ccDrift, st.brDrift) → i ∈ [.init, .tick z, .setst z])

/-- Only BRPASS, and SETST where it writes that state, enter PASSTHROUGH, and only BRRESET, SETST and INIT
leave it: no TICK does either (R204, R215, R219 (c)). -/
def Obligations.PassthroughIsEnteredAndLeftExplicitly : Prop :=
  ∀ (i : Instr) (s t : State) (z : Byte), exec i s = .next t →
    ((t.zone z).st.brState = .passthrough → (s.zone z).st.brState ≠ .passthrough →
      i = .brpass z ∨ i = .setst z) ∧
    ((s.zone z).st.brState = .passthrough → (t.zone z).st.brState ≠ .passthrough →
      i = .init ∨ i = .brreset z ∨ i = .setst z)

/-! ### Fixed-point commands -/

/-- Operand assembly: the low N bits of the register, two's complement when S = 1 (R76, R100). -/
def Obligations.OperandIsTheLowBits : Prop :=
  ∀ (w : Width) (v : DWord),
    operand .unsigned w v = ((v.toNat % 2 ^ w.bits : Nat) : Int) ∧
    operand .signed w v =
      (if 2 ^ (w.bits - 1) ≤ v.toNat % 2 ^ w.bits then
        ((v.toNat % 2 ^ w.bits : Nat) : Int) - 2 ^ w.bits
      else ((v.toNat % 2 ^ w.bits : Nat) : Int))

/-- SAT clamps x to -B..B, with B the low N bits of A1, writes Y0 alone and faults for no operands (R102). -/
def Obligations.SatClampsToTheBound : Prop :=
  ∀ (sg : Signedness) (w : Width) (s : State) (B : Int),
    B = ((s.a[1].toNat % 2 ^ w.bits : Nat) : Int) →
    exec (.sat sg w) s = .next { s with
      y := s.y.set 0 (BitVec.ofInt 64 (max (-B) (min (operand sg w s.a[0]) B))) }

/-- SHR rounds x / 2^SH by its mode, SH = 0 to 63 also above N, writes Y0 alone and faults for no operands
(R103, R106). -/
def Obligations.ShrRoundsByItsMode : Prop :=
  ∀ (sg : Signedness) (w : Width) (rm : Rounding) (sh : BitVec 6) (s : State),
    ∃ r, exec (.shr sg w rm sh) s = .next { s with y := s.y.set 0 (BitVec.ofInt 64 r) } ∧
      RoundsTo rm (operand sg w s.a[0]) (2 ^ sh.toNat) r ∧
      FitsWidth sg w.bits r

/-- MUL forms the exact product and rounds it at s = FA + FB - FR bits into 2N bits, writes Y0 alone and
faults for no operands (R104, R108). -/
def Obligations.MulRoundsTheExactProduct : Prop :=
  ∀ (sg : Signedness) (w : Width) (rm : Rounding) (fa fb fr : BitVec 6) (sh : Nat) (s : State),
    (Instr.mul sg w rm fa fb fr).wellFormed = true → sh + fr.toNat = fa.toNat + fb.toNat →
    ∃ r, exec (.mul sg w rm fa fb fr) s = .next { s with y := s.y.set 0 (BitVec.ofInt 64 r) } ∧
      RoundsTo rm (operand sg w s.a[0] * operand sg w s.a[1]) (2 ^ sh) r ∧
      FitsWidth sg (2 * w.bits) r

/-- DIV rounds the exact quotient (a * 2^N) / (b * 2^s) once, into 2N bits, for every divisor but 0 and
every operand pair but the one that overflows (R105, R108). -/
def Obligations.DivRoundsTheExactQuotient : Prop :=
  ∀ (sg : Signedness) (w : Width) (rm : Rounding) (fa fb fr : BitVec 6) (sh : Nat) (s : State)
    (a b : Int),
    (Instr.div sg w rm fa fb fr).wellFormed = true →
    sh + fb.toNat + fr.toNat = fa.toNat + w.bits →
    a = operand sg w s.a[0] → b = operand sg w s.a[1] → b ≠ 0 →
    ¬ (sg = .signed ∧ a = -(2 ^ (w.bits - 1)) ∧ b = -1 ∧ sh = 0) →
    ∃ r, exec (.div sg w rm fa fb fr) s = .next { s with y := s.y.set 0 (BitVec.ofInt 64 r) } ∧
      RoundsTo rm (b.sign * (a * 2 ^ w.bits)) (b.sign * (b * 2 ^ sh)) r ∧
      FitsWidth sg (2 * w.bits) r

/-- DIV records DIV_ZERO for b = 0 and DIV_OVERFLOW for a = -2^(N-1), b = -1, s = 0 with S = 1, and writes
no result (R105). -/
def Obligations.DivFaultsOnZeroAndOverflow : Prop :=
  ∀ (sg : Signedness) (w : Width) (rm : Rounding) (fa fb fr : BitVec 6) (s : State) (i : Instr),
    i = .div sg w rm fa fb fr → i.wellFormed = true → s.status.fault = false →
    (operand sg w s.a[1] = 0 → exec i s = .next { s with status := faulted .divZero i }) ∧
    (sg = .signed → operand sg w s.a[0] = -(2 ^ (w.bits - 1)) → operand sg w s.a[1] = -1 →
      fb.toNat + fr.toNat = fa.toNat + w.bits →
      exec i s = .next { s with status := faulted .divOverflow i })

/-! ### Gamma -/

/-- GAM8 writes the table's entry for A0[7:0] to Y0, zero-extended, and nothing else (R130). -/
def Obligations.Gam8ReadsTheTable : Prop :=
  ∀ (s : State) (x : Fin 256), s.a[0].toNat % 2 ^ 8 = x.val →
    exec .gam8 s =
      .next { s with y := s.y.set 0 (BitVec.ofNat 64 (s.params.gamma8Table[x]).toNat) }

/-- GAM8 is monotone for every well-formed table (R8, R130). -/
def Obligations.Gam8IsMonotone : Prop :=
  ∀ (s s' t t' : State), s.params.wellFormed = true → s'.params = s.params →
    s.a[0].toNat % 2 ^ 8 ≤ s'.a[0].toNat % 2 ^ 8 →
    exec .gam8 s = .next t → exec .gam8 s' = .next t' → t.y[0].toNat ≤ t'.y[0].toNat

/-- GAM16 normalises, sums the K = GAMMA_ORDER terms of the series, each a coefficient times a power of u,
multiplies by x^2, clamps and denormalises (R132 to R135), and writes the 16-bit result to Y0 alone. -/
def Obligations.Gam16DenormalisesTheClampedPower : Prop :=
  ∀ (s : State) (x : Int), x = ((s.a[0].toNat % 2 ^ 16 : Nat) : Int) →
    ∃ xn p x2 q y out : Int,
      exec .gam16 s = .next { s with y := s.y.set 0 (BitVec.ofInt 64 out) } ∧
      (xn * 65535 ≤ x * 2 ^ 27 ∧ x * 2 ^ 27 < (xn + 1) * 65535) ∧
      Nearest (xn * xn) (2 ^ 27) x2 ∧
      p = ∑ k ∈ Finset.range s.params.gammaOrder,
        rmul27 (s.params.gammaCoef.toList.getD k 0).toInt (seriesPower (xn - 2 ^ 27) k) ∧
      Nearest (p * x2) (2 ^ 27) q ∧
      y = max 0 (min q (2 ^ 27)) ∧
      Nearest (y * 65535) (2 ^ 27) out ∧ 0 ≤ out ∧ out ≤ 65535

/-- GAM16 of 0 is 0, and GAM16 of 65535 is 65535 when GAMMA_COEF[0] = ONE, for every order (R135). -/
def Obligations.Gam16IsExactAtTheEnds : Prop :=
  ∀ s : State, s.params.wellFormed = true →
    (s.a[0].toNat % 2 ^ 16 = 0 → exec .gam16 s = .next { s with y := s.y.set 0 0 }) ∧
    (s.a[0].toNat % 2 ^ 16 = 65535 → s.params.gammaCoef[0].toInt = 2 ^ 27 →
      exec .gam16 s = .next { s with y := s.y.set 0 65535 })

/-- GAMRGB applies the 16-bit path to each channel on its own and writes Y0 alone (R136): channel by channel
it is what GAM16 gives for that channel's sample. -/
def Obligations.GamrgbIsGam16PerChannel : Prop :=
  ∀ s : State, ∃ r g b : DWord,
    exec .gam16 { s with a := s.a.set 0 (BitVec.ofNat 64 (s.a[0].toNat % 2 ^ 16)) } =
      .next { s with
        a := s.a.set 0 (BitVec.ofNat 64 (s.a[0].toNat % 2 ^ 16))
        y := s.y.set 0 r } ∧
    exec .gam16 { s with a := s.a.set 0 (BitVec.ofNat 64 (s.a[0].toNat / 2 ^ 16 % 2 ^ 16)) } =
      .next { s with
        a := s.a.set 0 (BitVec.ofNat 64 (s.a[0].toNat / 2 ^ 16 % 2 ^ 16))
        y := s.y.set 0 g } ∧
    exec .gam16 { s with a := s.a.set 0 (BitVec.ofNat 64 (s.a[0].toNat / 2 ^ 32 % 2 ^ 16)) } =
      .next { s with
        a := s.a.set 0 (BitVec.ofNat 64 (s.a[0].toNat / 2 ^ 32 % 2 ^ 16))
        y := s.y.set 0 b } ∧
    exec .gamrgb s = .next { s with
      y := s.y.set 0 (BitVec.ofNat 64 (r.toNat + g.toNat * 2 ^ 16 + b.toNat * 2 ^ 32)) }

/-! ### Colour space -/

/-- RGB2HSV: the value, the saturation, the raw hue by the red, green, blue order of ties, its scaling and its
single wrap (R150 to R155), written to Y0, Y1 and Y2 alone; no operands fault. -/
def Obligations.Rgb2hsvFollowsTheFormula : Prop :=
  ∀ (s : State) (r g b mx mn d : Int),
    r = ((s.a[0].toNat % 2 ^ 16 : Nat) : Int) → g = ((s.a[0].toNat / 2 ^ 16 % 2 ^ 16 : Nat) : Int) →
    b = ((s.a[0].toNat / 2 ^ 32 % 2 ^ 16 : Nat) : Int) →
    mx = max (max r g) b → mn = min (min r g) b → d = mx - mn →
    ∃ h sat v : Int,
      exec .rgb2hsv s = .next { s with
        y := ((s.y.set 0 (BitVec.ofInt 64 h)).set 1 (BitVec.ofInt 64 sat)).set 2
          (BitVec.ofInt 64 v) } ∧
      Nearest (mx * 2 ^ 27) 65535 v ∧ (d = 0 → h = 0 ∧ sat = 0) ∧
      (d ≠ 0 → Nearest (d * 2 ^ 27) mx sat ∧
        ∃ rc gc bc hr h6 : Int, Nearest ((mx - r) * 2 ^ 27) d rc ∧ Nearest ((mx - g) * 2 ^ 27) d gc ∧
          Nearest ((mx - b) * 2 ^ 27) d bc ∧
          hr = (if r = mx then bc - gc else if g = mx then 2 * 2 ^ 27 + rc - bc
            else 4 * 2 ^ 27 + gc - rc) ∧
          Nearest hr 6 h6 ∧ h = if h6 < 0 then h6 + 2 ^ 27 else h6)

/-- RGB2HSV always returns 0 <= h < ONE, 0 <= s <= ONE and 0 <= v <= ONE, and h = s = 0 for a gray
(R156). -/
def Obligations.Rgb2hsvStaysInRange : Prop :=
  ∀ s t : State, exec .rgb2hsv s = .next t →
    (0 ≤ t.y[0].toInt ∧ t.y[0].toInt < 2 ^ 27) ∧ (0 ≤ t.y[1].toInt ∧ t.y[1].toInt ≤ 2 ^ 27) ∧
    (0 ≤ t.y[2].toInt ∧ t.y[2].toInt ≤ 2 ^ 27) ∧
    (s.a[0].toNat % 2 ^ 16 = s.a[0].toNat / 2 ^ 16 % 2 ^ 16 →
      s.a[0].toNat % 2 ^ 16 = s.a[0].toNat / 2 ^ 32 % 2 ^ 16 → t.y[0] = 0 ∧ t.y[1] = 0)

/-- HSV2RGB: V, the sextant and the remainder, P, Q and T, and the sextant table (R157 to R162), for every
32-bit h, s and v; Y0 alone is written and no operands fault. -/
def Obligations.Hsv2rgbFollowsTheSextants : Prop :=
  ∀ (s : State) (h sat v : Int),
    h = (s.a[0].setWidth 32).toInt → sat = (s.a[1].setWidth 32).toInt →
    v = (s.a[2].setWidth 32).toInt →
    ∃ i f vr V sf st p P q Q t T R G B : Int,
      exec .hsv2rgb s = .next { s with
        y := s.y.set 0 (BitVec.ofInt 64 (R + G * 2 ^ 16 + B * 2 ^ 32)) } ∧
      (6 * h = i * 2 ^ 27 + f ∧ 0 ≤ f ∧ f < 2 ^ 27) ∧
      (Nearest (v * 65535) (2 ^ 27) vr ∧ V = max 0 (min vr 65535)) ∧
      Nearest (sat * f) (2 ^ 27) sf ∧ Nearest (sat * (2 ^ 27 - f)) (2 ^ 27) st ∧
      (Nearest (V * (2 ^ 27 - sat)) (2 ^ 27) p ∧ P = max 0 (min p 65535)) ∧
      (Nearest (V * (2 ^ 27 - sf)) (2 ^ 27) q ∧ Q = max 0 (min q 65535)) ∧
      (Nearest (V * (2 ^ 27 - st)) (2 ^ 27) t ∧ T = max 0 (min t 65535)) ∧
      (R, G, B) =
        (if sat = 0 then (V, V, V)
        else if i % 6 = 0 then (V, T, P)
        else if i % 6 = 1 then (Q, V, P)
        else if i % 6 = 2 then (P, V, T)
        else if i % 6 = 3 then (P, Q, V)
        else if i % 6 = 4 then (T, P, V)
        else (V, P, Q))

/-- HSV2RGB reduces h mod 1: hues that differ by a whole number of turns give the same colour (R157). -/
def Obligations.Hsv2rgbWrapsTheHue : Prop :=
  ∀ (s s' t t' : State) (k : Int),
    (s'.a[0].setWidth 32).toInt = (s.a[0].setWidth 32).toInt + k * 2 ^ 27 →
    s'.a[1].setWidth 32 = s.a[1].setWidth 32 → s'.a[2].setWidth 32 = s.a[2].setWidth 32 →
    exec .hsv2rgb s = .next t → exec .hsv2rgb s' = .next t' → t'.y[0] = t.y[0]

/-- RGB2HSV then HSV2RGB reproduces every colour within 2 units per channel (R163). -/
def Obligations.ColourRoundTripWithinTwo : Prop :=
  ∀ s t u : State, exec .rgb2hsv s = .next t →
    exec .hsv2rgb { t with a := #v[t.y[0], t.y[1], t.y[2], t.a[3]] } = .next u →
    ∀ k : Fin 3,
      u.y[0].toNat / 2 ^ (16 * k.val) % 2 ^ 16 ≤ s.a[0].toNat / 2 ^ (16 * k.val) % 2 ^ 16 + 2 ∧
      s.a[0].toNat / 2 ^ (16 * k.val) % 2 ^ 16 ≤ u.y[0].toNat / 2 ^ (16 * k.val) % 2 ^ 16 + 2

/-! ### Calibration and boost -/

/-- CALBOOST: the four inverse-gain terms, the guarded boost factor and the boosted channels (R180 to R184),
written to Y0 and Y1 alone; no operands and no ratio fault. -/
def Obligations.CalboostFollowsTheFormula : Prop :=
  ∀ (s : State) (r g b igr igg igb mx : Int),
    r = ((s.a[0].toNat % 2 ^ 16 : Nat) : Int) → g = ((s.a[0].toNat / 2 ^ 16 % 2 ^ 16 : Nat) : Int) →
    b = ((s.a[0].toNat / 2 ^ 32 % 2 ^ 16 : Nat) : Int) →
    igr = r * ((s.a[1].toNat % 2 ^ 8 : Nat) : Int) →
    igg = g * ((s.a[1].toNat / 2 ^ 8 % 2 ^ 8 : Nat) : Int) →
    igb = b * ((s.a[1].toNat / 2 ^ 16 % 2 ^ 8 : Nat) : Int) →
    mx = max (max r g) b →
    ∃ igl m bf outr outg outb : Int,
      exec .calboost s = .next { s with
        y := (s.y.set 0 (BitVec.ofInt 64 bf)).set 1
          (BitVec.ofInt 64 (outr + outg * 2 ^ 16 + outb * 2 ^ 32)) } ∧
      Nearest ((igr + igg + igb) * s.params.dieLampRatio.toNat) (2 ^ 16) igl ∧
      m = max (max (max igr igg) igb) igl ∧
      (m = 0 → bf = 0) ∧ (m ≠ 0 → Nearest (mx * 2 ^ 32) m bf) ∧
      Nearest (igr * bf) (2 ^ 32) outr ∧ Nearest (igg * bf) (2 ^ 32) outg ∧
      Nearest (igb * bf) (2 ^ 32) outb ∧
      (0 ≤ outr ∧ outr ≤ mx) ∧ (0 ≤ outg ∧ outg ≤ mx) ∧ (0 ≤ outb ∧ outb ≤ mx)

/-! ### Effects -/

/-- CCRESET arms the colour cycle for a period of at least 1: period, slope floor(ONE / p), enable, index 0,
and nothing else (R201). -/
def Obligations.CcresetArmsTheCycle : Prop :=
  ∀ (s : State) (z : Byte) (p : Nat), z.toNat < s.params.numZones → p = s.a[0].toNat % 2 ^ 32 →
    p ≠ 0 →
    exec (.ccreset z) s = .next { s with
      zones := s.zones.set z.toNat
        { par := { (s.zone z).par with
            ccPeriod := BitVec.ofNat 32 p
            ccSlope := BitVec.ofNat 32 (2 ^ 27 / p)
            ccEn := true }
          st := { (s.zone z).st with ccIdx := 0 } } }

/-- CCRECALC arms the cycle in phase: the index is that of the current hue, rounded down, below the period
(R202). -/
def Obligations.CcrecalcKeepsThePhase : Prop :=
  ∀ (s : State) (z : Byte) (p : Nat) (hw turns : Int), z.toNat < s.params.numZones →
    p = s.a[0].toNat % 2 ^ 32 → p ≠ 0 →
    (s.zone z).st.outH.toInt = turns * 2 ^ 27 + hw → 0 ≤ hw → hw < 2 ^ 27 →
    ∃ idx : Nat, idx < p ∧ (idx : Int) * 2 ^ 27 ≤ hw * p ∧ hw * p < ((idx : Int) + 1) * 2 ^ 27 ∧
      exec (.ccrecalc z) s = .next { s with
        zones := s.zones.set z.toNat
          { par := { (s.zone z).par with
              ccPeriod := BitVec.ofNat 32 p
              ccSlope := BitVec.ofNat 32 (2 ^ 27 / p)
              ccEn := true }
            st := { (s.zone z).st with ccIdx := BitVec.ofNat 32 idx } } }

/-- BRRESET splits the period among the present segments and arms the breathing machine (R203). -/
def Obligations.BrresetSplitsThePeriod : Prop :=
  ∀ (s : State) (z : Byte) (p nseg rp : Nat), z.toNat < s.params.numZones →
    p = s.a[0].toNat % 2 ^ 32 →
    nseg = 2 + (s.zone z).par.brTopEn.toNat + (s.zone z).par.brBotEn.toNat → rp = p / nseg →
    rp ≠ 0 →
    exec (.brreset z) s = .next { s with
      zones := s.zones.set z.toNat
        { par := { (s.zone z).par with
            brPeriod := BitVec.ofNat 32 p
            brRamp := BitVec.ofNat 32 rp
            brTop := if (s.zone z).par.brTopEn then BitVec.ofNat 32 rp else 0
            brBot := if (s.zone z).par.brBotEn then BitVec.ofNat 32 rp else 0
            brSlope := BitVec.ofNat 32 (2 ^ 27 / rp)
            brEn := true }
          st := { (s.zone z).st with brState := .startup, brSeg := 0, brTick := 0 } } }

/-- CCRESET and CCRECALC record PERIOD_ZERO for a period of 0, and BRRESET for a ramp period of 0, and change
nothing else (R201 to R203, R315). -/
def Obligations.ZeroPeriodFaults : Prop :=
  ∀ (s : State) (z : Byte), z.toNat < s.params.numZones → s.status.fault = false →
    (s.a[0].toNat % 2 ^ 32 = 0 →
      exec (.ccreset z) s = .next { s with status := faulted .periodZero (.ccreset z) } ∧
      exec (.ccrecalc z) s = .next { s with status := faulted .periodZero (.ccrecalc z) }) ∧
    (s.a[0].toNat % 2 ^ 32 <
        2 + (s.zone z).par.brTopEn.toNat + (s.zone z).par.brBotEn.toNat →
      exec (.brreset z) s = .next { s with status := faulted .periodZero (.brreset z) })

/-- BRPASS puts the zone into PASSTHROUGH and changes no other field (R204). -/
def Obligations.BrpassEntersPassthrough : Prop :=
  ∀ (s : State) (z : Byte), z.toNat < s.params.numZones →
    exec (.brpass z) s = .next { s with
      zones := s.zones.set z.toNat
        { (s.zone z) with st := { (s.zone z).st with brState := .passthrough } } }

/-- TICK completes for every zone in the store and every field value: it writes that zone's state record and
Y0 alone, keeps the input HSV, forces the saturation, moves each drift counter one step toward 0 and resolves
the output colour as HSV2RGB does (R34, R41, R216, R217). That TICK writes the drift counters, against a
sentence of 45_host_records.md, is the model's choice (log entry 9). -/
def Obligations.TickResolvesTheZone : Prop :=
  ∀ (s : State) (z : Byte), z.toNat < s.params.numZones →
    ∃ st' : ZoneState,
      exec (.tick z) s = .next { s with
        zones := s.zones.set z.toNat { par := (s.zone z).par, st := st' }
        y := s.y.set 0 (pack st'.outRgb) } ∧
      st'.inH = (s.zone z).st.inH ∧ st'.inS = (s.zone z).st.inS ∧ st'.inV = (s.zone z).st.inV ∧
      st'.outS = (if (s.zone z).par.ccEn then 0x08000000 else (s.zone z).st.inS) ∧
      st'.ccDrift.toInt = (s.zone z).st.ccDrift.toInt - (s.zone z).st.ccDrift.toInt.sign ∧
      st'.brDrift.toInt = (s.zone z).st.brDrift.toInt - (s.zone z).st.brDrift.toInt.sign ∧
      ∀ u : State, exec .hsv2rgb { s with
          a := #v[st'.outH.signExtend 64, st'.outS.signExtend 64, st'.outV.signExtend 64, 0] } = .next u →
        u.y[0] = pack st'.outRgb

/-- The colour cycle of one TICK: with drift 0 one step, with a positive counter two, with a negative one
none (R216). Each step advances the index modulo the period and sets the hue; an injected index at or above
the period, or any index when the period is 0, wraps to index 0 and hue 0 at the first step, and a second step
goes on from index 0; with CC_EN = 0 a step passes IN_H through (R35, R208, R321). That a skipped step, and a step with
CC_EN = 0, keep an injected CC_IDX is the model's choice (log entry 9). -/
def Obligations.TickAdvancesTheHue : Prop :=
  ∀ (s t : State) (z : Byte) (k : Nat) (zp : ZoneParams) (st st' : ZoneState), s.Inv →
    z.toNat < s.params.numZones → exec (.tick z) s = .next t →
    zp = (s.zone z).par → st = (s.zone z).st → st' = (t.zone z).st →
    k = (if st.ccDrift = 0 then 1 else if st.ccDrift.msb = false then 2 else 0) →
    (k = 0 → st'.ccIdx = st.ccIdx ∧ st'.outH = st.outH) ∧
    (k ≠ 0 → zp.ccEn = false → st'.ccIdx = st.ccIdx ∧ st'.outH = st.inH) ∧
    (k ≠ 0 → zp.ccEn = true → st.ccIdx.toNat < zp.ccPeriod.toNat →
      st'.ccIdx.toNat = (st.ccIdx.toNat + k) % zp.ccPeriod.toNat ∧
      st'.outH.toInt = (st'.ccIdx.toNat : Int) * zp.ccSlope.toInt % 2 ^ 27) ∧
    (k = 1 → zp.ccEn = true → zp.ccPeriod.toNat ≤ st.ccIdx.toNat → st'.ccIdx = 0 ∧ st'.outH = 0) ∧
    (k = 2 → zp.ccEn = true → zp.ccPeriod.toNat ≤ st.ccIdx.toNat →
      st'.ccIdx = (if 1 < zp.ccPeriod.toNat then 1 else 0) ∧
      st'.outH.toInt = (if 1 < zp.ccPeriod.toNat then zp.ccSlope.toInt % 2 ^ 27 else 0))

/-- After CCRESET with period p, n drift-free TICKs give the index n mod p and the hue
(n mod p) * floor(ONE / p): the cycle restarts every p ticks and never drifts (R201, R208). -/
def Obligations.ColourCycleHasItsPeriod : Prop :=
  ∀ (s : State) (z : Byte) (p n : Nat), s.Inv → s.status.fault = false →
    z.toNat < s.params.numZones → p = s.a[0].toNat % 2 ^ 32 → p ≠ 0 → n ≠ 0 →
    (s.zone z).st.ccDrift = 0 →
    ∃ t, runCommands (.ccreset z :: List.replicate n (.tick z)) s = .next t ∧
      (t.zone z).st.ccIdx.toNat = n % p ∧
      (t.zone z).st.outH.toNat = n % p * (2 ^ 27 / p) ∧ t.status.fault = false

/-- One drift-free TICK moves the breathing machine by the transition table, row by row (R209 to R215,
R218). -/
def Obligations.TickFollowsTheBreathingTable : Prop :=
  ∀ (s t : State) (z : Byte) (st st' : ZoneState) (row : BreathRow), s.Inv →
    z.toNat < s.params.numZones → exec (.tick z) s = .next t →
    st = (s.zone z).st → st' = (t.zone z).st → st.brDrift = 0 →
    row = breathTable (s.zone z).par st →
    st'.brState = row.next ∧ st'.brSeg.toNat = row.seg ∧ st'.brTick.toNat = row.tick ∧
    (match row.level with
      | some n => Nearest (st.inV.toInt * breathLevel s.params (s.zone z).par n) (2 ^ 27) st'.outV.toInt
      | none => st'.outV = st.inV)

/-- A skipped breathing step changes no breathing field, and a doubled one is the step taken twice
(R216). -/
def Obligations.DriftRunsTheBreathingStep : Prop :=
  ∀ (s t : State) (z : Byte) (st st' : ZoneState), s.Inv → z.toNat < s.params.numZones →
    exec (.tick z) s = .next t → st = (s.zone z).st → st' = (t.zone z).st →
    (st.brDrift.toInt < 0 → breathPhase st' = breathPhase st ∧ st'.outV = st.outV) ∧
    (0 < st.brDrift.toInt →
      breathPhase st' =
        breathPhase (brStep s.params (s.zone z).par (brStep s.params (s.zone z).par st)) ∧
      st'.outV = (brStep s.params (s.zone z).par (brStep s.params (s.zone z).par st)).outV)

/-- The breathing level: position times slope clamped to [0, ONE], reshaped by the cubic when BR_CUBIC_EN = 1,
and in [0, ONE] for every slope and position; for an input value in [0, ONE] the brightness lies in [0, IN_V]
(R205 to R207, R221). -/
def Obligations.BreathLevelFollowsTheCurve : Prop :=
  ∀ (p : Params) (zp : ZoneParams) (st : ZoneState) (n : Nat),
    ∃ l l2 l3 t1 t2 t3 : Int,
      l = max 0 (min ((n : Int) * zp.brSlope.toInt) (2 ^ 27)) ∧
      Nearest (l * l) (2 ^ 27) l2 ∧ Nearest (l2 * l) (2 ^ 27) l3 ∧
      Nearest (p.cubicC1.toInt * l) (2 ^ 27) t1 ∧ Nearest (p.cubicC2.toInt * l2) (2 ^ 27) t2 ∧
      Nearest (p.cubicC3.toInt * l3) (2 ^ 27) t3 ∧
      breathLevel p zp n =
        (if zp.brCubicEn = true then max 0 (min (p.cubicC0.toInt + t1 + t2 + t3) (2 ^ 27)) else l) ∧
      (0 ≤ breathLevel p zp n ∧ breathLevel p zp n ≤ 2 ^ 27) ∧
      (0 ≤ st.inV.toInt → st.inV.toInt ≤ 2 ^ 27 →
        0 ≤ (bright p zp st n).toInt ∧ (bright p zp st n).toInt ≤ st.inV.toInt)

/-- Without holds the breathing machine never visits TOP_SEG or BOTTOM_SEG, whatever the drift (R219 (a)). -/
def Obligations.NoHoldsWithoutHoldPeriods : Prop :=
  ∀ (n : Nat) (s : State) (z : Byte), s.Inv → s.status.fault = false →
    z.toNat < s.params.numZones → (s.zone z).par.brTop = 0 → (s.zone z).par.brBot = 0 →
    (s.zone z).st.brState.isRampOnly = true →
    ∃ t, runCommands (List.replicate n (.tick z)) s = .next t ∧
      (t.zone z).st.brState.isRampOnly = true

/-- The breathing cycle is 2 * rp + BR_TOP + BR_BOT ticks long: from the foot of the ramp, that many
drift-free TICKs bring the machine back to it (R219 (b)). -/
def Obligations.BreathingRepeatsAfterItsPeriod : Prop :=
  ∀ (s : State) (z : Byte) (zp : ZoneParams), s.Inv → s.status.fault = false →
    z.toNat < s.params.numZones → zp = (s.zone z).par → zp.brEn = true → zp.brRamp ≠ 0 →
    (s.zone z).st.brDrift = 0 → breathPhase (s.zone z).st = (.rampUp, 0, 0) →
    ∃ t, runCommands (List.replicate (2 * zp.brRamp.toNat + zp.brTop.toNat + zp.brBot.toNat) (.tick z)) s
        = .next t ∧
      breathPhase (t.zone z).st = (.rampUp, 0, 0) ∧ (t.zone z).par = zp

/-- With BR_EN = 0 a hold is never left by ticking: the documented stuck behaviour (R212, R214, R219 (d)). -/
def Obligations.DisabledHoldStaysStuck : Prop :=
  ∀ (n : Nat) (s : State) (z : Byte), s.Inv → s.status.fault = false →
    z.toNat < s.params.numZones → (s.zone z).par.brEn = false →
    ((s.zone z).st.brState = .topSeg ∨ (s.zone z).st.brState = .bottomSeg) →
    ∃ t, runCommands (List.replicate n (.tick z)) s = .next t ∧
      breathPhase (t.zone z).st = breathPhase (s.zone z).st

/-! ### Initialisation and records -/

/-- INIT zeroes every zone's records and Y0 to Y3 and leaves A, RB and STATUS (R44, R260, R313). That it leaves
A0 to A3, against a sentence of 10_state.md, is the model's choice (log entry 9). -/
def Obligations.InitZeroesZonesAndResults : Prop :=
  ∀ s : State, exec .init s = .next { s with
    zones := List.replicate s.zones.length Zone.zero
    y := #v[0, 0, 0, 0] }

/-- GETPAR writes the PARAMS image and GETST the STATE image, field by field, and 0 elsewhere, and nothing but
RB (R261 to R263, R265). -/
def Obligations.GetWritesTheRecordImage : Prop :=
  ∀ (s : State) (z : Byte) (zp : ZoneParams) (st : ZoneState), z.toNat < s.params.numZones →
    s.zone z = { par := zp, st := st } →
    exec (.getpar z) s = .next { s with
      rb := #v[zp.ccPeriod, zp.ccSlope,
        BitVec.ofNat 32 (zp.ccEn.toNat + 2 * zp.brEn.toNat + 4 * zp.brTopEn.toNat +
          8 * zp.brBotEn.toNat + 16 * zp.brCubicEn.toNat),
        zp.brPeriod, zp.brRamp, zp.brTop, zp.brBot, zp.brSlope, 0, 0, 0, 0, 0, 0, 0, 0] } ∧
    exec (.getst z) s = .next { s with
      rb := #v[st.ccIdx, st.brTick, st.brSeg,
        (match st.brState with
          | .startup => 0 | .rampUp => 1 | .topSeg => 2 | .rampDown => 3 | .bottomSeg => 4
          | .passthrough => 5),
        st.inH, st.inS, st.inV, st.outH, st.outS, st.outV,
        BitVec.ofNat 32 (st.outRgb.r.toNat + 2 ^ 16 * st.outRgb.g.toNat),
        BitVec.ofNat 32 st.outRgb.b.toNat, st.ccDrift, st.brDrift, 0, 0] }

/-- SETPAR stores every field as written, with no derivation and no refusal, and writes nothing but ZP[z]
(R261, R264). -/
def Obligations.SetparStoresTheParamsImage : Prop :=
  ∀ (s : State) (z : Byte), z.toNat < s.params.numZones →
    exec (.setpar z) s = .next { s with
      zones := s.zones.set z.toNat
        { par :=
            { ccPeriod := s.rb[0], ccSlope := s.rb[1]
              ccEn := decide (s.rb[2].toNat % 2 = 1)
              brEn := decide (s.rb[2].toNat / 2 % 2 = 1)
              brTopEn := decide (s.rb[2].toNat / 4 % 2 = 1)
              brBotEn := decide (s.rb[2].toNat / 8 % 2 = 1)
              brCubicEn := decide (s.rb[2].toNat / 16 % 2 = 1)
              brPeriod := s.rb[3], brRamp := s.rb[4], brTop := s.rb[5], brBot := s.rb[6]
              brSlope := s.rb[7] }
          st := (s.zone z).st } }

/-- SETST stores every field when RB3 is a state code 0 to 5, and otherwise records BAD_RECORD and writes no
field (R262, R266). -/
def Obligations.SetstStoresTheStateImage : Prop :=
  ∀ (s : State) (z : Byte), z.toNat < s.params.numZones →
    (∀ bs : BrState, brStateCode bs = s.rb[3] →
      exec (.setst z) s = .next { s with
        zones := s.zones.set z.toNat
          { par := (s.zone z).par
            st :=
              { ccIdx := s.rb[0], brTick := s.rb[1], brSeg := s.rb[2], brState := bs
                inH := s.rb[4], inS := s.rb[5], inV := s.rb[6]
                outH := s.rb[7], outS := s.rb[8], outV := s.rb[9]
                outRgb :=
                  { r := BitVec.ofNat 16 (s.rb[10].toNat % 2 ^ 16)
                    g := BitVec.ofNat 16 (s.rb[10].toNat / 2 ^ 16)
                    b := BitVec.ofNat 16 (s.rb[11].toNat % 2 ^ 16) }
                ccDrift := s.rb[12], brDrift := s.rb[13] } } }) ∧
    (5 < s.rb[3].toNat → s.status.fault = false →
      exec (.setst z) s = .next { s with status := faulted .badRecord (.setst z) })

/-- The accessors are lossless: GETPAR then SETPAR leaves every record as it was, and so does GETST then
SETST, which does not fault (R267 (a)). -/
def Obligations.GetThenSetChangesNoRecord : Prop :=
  ∀ (s : State) (z : Byte), s.Inv → s.status.fault = false → z.toNat < s.params.numZones →
    (∃ t, runCommands [.getpar z, .setpar z] s = .next t ∧ t.zones = s.zones ∧ t.status = s.status) ∧
    (∃ t, runCommands [.getst z, .setst z] s = .next t ∧ t.zones = s.zones ∧ t.status = s.status)

/-- The accessors return what was set: SETPAR then GETPAR gives back RB0 to RB7 with RB2 bits [31:5] cleared,
SETST then GETST gives back RB0 to RB13 with RB11 bits [31:16] cleared, and 0 in the other words
(R267 (b)). -/
def Obligations.SetThenGetReturnsTheImage : Prop :=
  ∀ (s : State) (z : Byte), s.Inv → s.status.fault = false → z.toNat < s.params.numZones →
    (∃ t, runCommands [.setpar z, .getpar z] s = .next t ∧ t.status = s.status ∧
      ∀ k : Fin 16, t.rb[k] =
        if k.val = 2 then BitVec.ofNat 32 (s.rb[2].toNat % 2 ^ 5)
        else if k.val < 8 then s.rb[k] else 0) ∧
    (s.rb[3].toNat ≤ 5 → ∃ t, runCommands [.setst z, .getst z] s = .next t ∧ t.status = s.status ∧
      ∀ k : Fin 16, t.rb[k] =
        if k.val = 11 then BitVec.ofNat 32 (s.rb[11].toNat % 2 ^ 16)
        else if k.val < 14 then s.rb[k] else 0)
end

