-- ==== Sys2Proof/Laws/Arith.lean ====
section
/-! SUPPORT. What the arithmetic helpers of R15 do, each said once: the rounded quotient as inequalities, the
clamps as bounds, and the repeated step. -/

namespace Sys2Proof.Machine

theorem one_eq : one = 2 ^ 27 := by decide

/-- The floor quotient as inequalities. -/
theorem floor_bounds (x : Int) {d : Int} (hd : 0 < d) :
    x / d * d ≤ x ∧ x < (x / d + 1) * d := by
  have h := Int.mul_ediv_add_emod x d
  have h1 := Int.emod_nonneg x (ne_of_gt hd)
  have h2 := Int.emod_lt_of_pos x hd
  constructor <;> nlinarith

/-- A value between two multiples of the divisor is the floor quotient. -/
theorem floor_unique {x d r : Int} (hd : 0 < d) (h1 : r * d ≤ x) (h2 : x < (r + 1) * d) :
    x / d = r := by
  obtain ⟨h3, h4⟩ := floor_bounds x hd
  have h5 : x / d < r + 1 := by
    by_contra h
    have : (r + 1) * d ≤ x / d * d := mul_le_mul_of_nonneg_right (by omega) hd.le
    omega
  have h6 : r < x / d + 1 := by
    by_contra h
    have : (x / d + 1) * d ≤ r * d := mul_le_mul_of_nonneg_right (by omega) hd.le
    omega
  omega

/-- `shrRound` rounds to nearest at every shift, n = 0 included. -/
theorem shrRound_nearest (x : Int) (n : Nat) : Nearest x (2 ^ n) (shrRound x n) := by
  unfold Nearest shrRound
  cases n with
  | zero => constructor <;> simp
  | succ k =>
    obtain ⟨h1, h2⟩ := floor_bounds (x + 2 ^ k) (d := 2 ^ (k + 1)) (by positivity)
    simp only [Nat.succ_ne_zero, ↓reduceIte, Nat.add_sub_cancel]
    rw [pow_succ] at *
    constructor <;> nlinarith

/-- `rdiv` rounds to nearest. -/
theorem rdiv_nearest (a : Int) {b : Int} (hb : 0 < b) : Nearest a b (rdiv a b) := by
  unfold Nearest rdiv
  obtain ⟨h1, h2⟩ := floor_bounds (2 * a + b) (d := 2 * b) (by omega)
  constructor <;> nlinarith

/-- The nearest integer is unique. -/
theorem nearest_unique {num den r r' : Int} (hd : 0 < den) (h : Nearest num den r)
    (h' : Nearest num den r') : r = r' := by
  obtain ⟨h1, h2⟩ := h
  obtain ⟨h3, h4⟩ := h'
  have a1 : (2 * r - 1) * den < (2 * r' + 1) * den := lt_of_le_of_lt h1 h4
  have a2 : (2 * r' - 1) * den < (2 * r + 1) * den := lt_of_le_of_lt h3 h2
  have b1 := lt_of_mul_lt_mul_right a1 hd.le
  have b2 := lt_of_mul_lt_mul_right a2 hd.le
  omega

/-- The nearest integer to a number between two integers lies between them. -/
theorem nearest_between {num den r lo hi : Int} (hd : 0 < den) (h : Nearest num den r)
    (hlo : lo * den ≤ num) (hhi : num ≤ hi * den) : lo ≤ r ∧ r ≤ hi := by
  obtain ⟨h1, h2⟩ := h
  have a1 : (2 * lo) * den < (2 * r + 1) * den := by nlinarith
  have a2 : (2 * r - 1) * den ≤ (2 * hi) * den := by nlinarith
  have b1 := lt_of_mul_lt_mul_right a1 hd.le
  have b2 := le_of_mul_le_mul_right a2 hd
  omega

/-- `rmul27` rounds the exact product. -/
theorem rmul27_nearest (a b : Int) : Nearest (a * b) (2 ^ 27) (rmul27 a b) :=
  shrRound_nearest (a * b) 27

/-- The clamp as a max of a min. -/
theorem clamp_eq_max_min (x : Int) {lo hi : Int} (h : lo ≤ hi) :
    clamp x lo hi = max lo (min x hi) := by
  unfold clamp
  split
  · omega
  · split <;> omega

theorem clamp_bounds (x : Int) {lo hi : Int} (h : lo ≤ hi) :
    lo ≤ clamp x lo hi ∧ clamp x lo hi ≤ hi := by
  unfold clamp
  split
  · omega
  · split <;> omega

theorem clamp_of_mem {x lo hi : Int} (h1 : lo ≤ x) (h2 : x ≤ hi) : clamp x lo hi = x := by
  unfold clamp
  split
  · omega
  · split <;> omega

theorem clamp16_bounds (x : Int) : 0 ≤ clamp16 x ∧ clamp16 x ≤ 65535 :=
  clamp_bounds x (by decide)

theorem clamp16_eq (x : Int) : clamp16 x = max 0 (min x 65535) :=
  clamp_eq_max_min x (by decide)

@[simp] theorem applyTimes_zero {α : Type} (f : α → α) (x : α) : applyTimes 0 f x = x := rfl

@[simp] theorem applyTimes_succ {α : Type} (n : Nat) (f : α → α) (x : α) :
    applyTimes (n + 1) f x = applyTimes n f (f x) := rfl

/-- What every application keeps, any number of them keeps. -/
theorem applyTimes_keeps {α : Type} {f : α → α} {P : α → Prop} (hf : ∀ x, P x → P (f x)) :
    ∀ (n : Nat) (x : α), P x → P (applyTimes n f x)
  | 0, _, h => h
  | n + 1, x, h => applyTimes_keeps hf n (f x) (hf x h)

/-- The shift of R106 rounds by its mode. -/
theorem shiftRight_rounds (rm : Rounding) (x : Int) (n : Nat) :
    RoundsTo rm x (2 ^ n) (shiftRight rm x n) := by
  have hp : (0 : Int) < 2 ^ n := by positivity
  cases rm with
  | rd => exact floor_bounds x hp
  | ru =>
    obtain ⟨h1, h2⟩ := floor_bounds (-x) hp
    refine ⟨?_, ?_⟩ <;> simp only [shiftRight, shrCeil] <;> nlinarith
  | rn => exact shrRound_nearest x n

/-- The rounding of a quotient with a positive denominator, for the modes DIV accepts. -/
theorem roundQuotient_rounds {rm : Rounding} (h : rm.acceptedByMulDiv = true) (num : Int) {den : Int}
    (hd : 0 < den) : RoundsTo rm num den (roundQuotient rm num den) := by
  cases rm with
  | rd => exact floor_bounds num hd
  | ru => cases h
  | rn => exact rdiv_nearest num hd

/-- A rounded value lies between any two integers that bound the number. -/
theorem roundsTo_between {rm : Rounding} {num den r lo hi : Int} (hd : 0 < den)
    (h : RoundsTo rm num den r) (hlo : lo * den ≤ num) (hhi : num ≤ hi * den) : lo ≤ r ∧ r ≤ hi := by
  cases rm with
  | rn => exact nearest_between hd h hlo hhi
  | rd =>
    obtain ⟨h1, h2⟩ := h
    have b1 := lt_of_mul_lt_mul_right (lt_of_le_of_lt hlo h2) hd.le
    have b2 := le_of_mul_le_mul_right (le_trans h1 hhi) hd
    omega
  | ru =>
    obtain ⟨h1, h2⟩ := h
    have b1 := le_of_mul_le_mul_right (le_trans hlo h2) hd
    have b2 := lt_of_mul_lt_mul_right (lt_of_lt_of_le h1 hhi) hd.le
    omega

end Sys2Proof.Machine
end

