-- ==== Sys2Proof/Laws/Colour.lean ====
section
/-! SUPPORT. The ranges of the engines' intermediate values: gamma, colour space, calibration and boost. -/

namespace Sys2Proof.Machine

/-- The gamma power lies in [0, ONE] for every coefficient set (R134). -/
theorem gammaPower_bounds (p : Params) (xn : Int) : 0 ≤ gammaPower p xn ∧ gammaPower p xn ≤ one :=
  clamp_bounds _ (by decide)

/-- xn is the floor quotient of R132. -/
theorem gammaNormalise_bounds (x : Int) :
    gammaNormalise x * 65535 ≤ x * one ∧ x * one < (gammaNormalise x + 1) * 65535 :=
  floor_bounds _ (by decide)

@[simp] theorem seriesFrom_nil (u pw : Int) : seriesFrom u [] pw = 0 := rfl

@[simp] theorem seriesFrom_cons (u pw : Int) (c : Word) (rest : List Word) :
    seriesFrom u (c :: rest) pw = rmul27 c.toInt pw + seriesFrom u rest (rmul27 pw u) := rfl

theorem scaledValue_bounds (v : Int) : 0 ≤ scaledValue v ∧ scaledValue v ≤ 65535 :=
  clamp_bounds _ (by decide)

theorem scaledChannel_bounds (V factor : Int) :
    0 ≤ scaledChannel V factor ∧ scaledChannel V factor ≤ 65535 :=
  clamp_bounds _ (by decide)

/-- 6h splits into the sextant index and a fraction in [0, ONE) (R160). -/
theorem sextant_split (h : Int) :
    6 * h = sextantIndex h * one + sextantFraction h ∧ 0 ≤ sextantFraction h ∧
      sextantFraction h < one := by
  obtain ⟨h1, h2⟩ := floor_bounds (6 * h) (d := one) (by decide)
  unfold sextantFraction sextantIndex
  refine ⟨by ring, by linarith, by linarith⟩

theorem sextant_lt (h : Int) : sextant h < 6 := by
  unfold sextant
  omega

/-- The rounded lamp term and the others are bounded below by 0, so m is (R181). -/
theorem gainMax_nonneg (k : Word) (c : Rgb) (cr cg cb : Byte) :
    0 ≤ gainMax (inverseGains k c cr cg cb) := by
  have : (0 : Int) ≤ (inverseGains k c cr cg cb).r := by
    simp only [inverseGains]
    positivity
  unfold gainMax
  omega

end Sys2Proof.Machine
end

