-- ==== Sys2Proof/Laws/Decode.lean ====
section
/-! SUPPORT. The fields of the words the encoder builds, as numbers, and what each code stands for. -/

namespace Sys2Proof

theorem opcField_toNat (w : Word) : (opcField w).toNat = w.toNat % 2 ^ 8 := by
  simp [opcField, BitVec.extractLsb'_toNat]

theorem zoneField_toNat (w : Word) : (zoneField w).toNat = w.toNat / 2 ^ 8 % 2 ^ 8 := by
  simp [zoneField, BitVec.extractLsb'_toNat, Nat.shiftRight_eq_div_pow]

theorem reservedN_toNat (w : Word) : (reservedN w).toNat = w.toNat / 2 ^ 8 := by
  have := w.isLt
  simp only [reservedN, BitVec.extractLsb'_toNat, Nat.shiftRight_eq_div_pow]
  omega

theorem reservedZ_toNat (w : Word) : (reservedZ w).toNat = w.toNat / 2 ^ 16 := by
  have := w.isLt
  simp only [reservedZ, BitVec.extractLsb'_toNat, Nat.shiftRight_eq_div_pow]
  omega

theorem reservedFX_toNat (w : Word) : (reservedFX w).toNat = w.toNat / 2 ^ 31 := by
  have := w.isLt
  simp only [reservedFX, BitVec.extractLsb'_toNat, Nat.shiftRight_eq_div_pow]
  omega

theorem sField_toNat (w : Word) : (sField w).toNat = w.toNat / 2 ^ 8 % 2 := by
  simp [sField, BitVec.extractLsb'_toNat, Nat.shiftRight_eq_div_pow]

theorem wField_toNat (w : Word) : (wField w).toNat = w.toNat / 2 ^ 9 % 4 := by
  simp [wField, BitVec.extractLsb'_toNat, Nat.shiftRight_eq_div_pow]

theorem rmField_toNat (w : Word) : (rmField w).toNat = w.toNat / 2 ^ 11 % 4 := by
  simp [rmField, BitVec.extractLsb'_toNat, Nat.shiftRight_eq_div_pow]

theorem faField_toNat (w : Word) : (faField w).toNat = w.toNat / 2 ^ 13 % 64 := by
  simp [faField, BitVec.extractLsb'_toNat, Nat.shiftRight_eq_div_pow]

theorem fbField_toNat (w : Word) : (fbField w).toNat = w.toNat / 2 ^ 19 % 64 := by
  simp [fbField, BitVec.extractLsb'_toNat, Nat.shiftRight_eq_div_pow]

theorem frField_toNat (w : Word) : (frField w).toNat = w.toNat / 2 ^ 25 % 64 := by
  simp [frField, BitVec.extractLsb'_toNat, Nat.shiftRight_eq_div_pow]

theorem append_toNat_mul {m n : Nat} (x : BitVec m) (y : BitVec n) :
    (x ++ y).toNat = x.toNat * 2 ^ n + y.toNat := by
  rw [BitVec.toNat_append, Nat.shiftLeft_eq, Nat.mul_comm, Nat.two_pow_add_eq_or_of_lt y.isLt]

theorem encodeN_toNat (opc : Byte) : (encodeN opc).toNat = opc.toNat := by
  simp only [encodeN, append_toNat_mul, BitVec.toNat_ofNat]
  omega

theorem encodeZ_toNat (opc z : Byte) : (encodeZ opc z).toNat = opc.toNat + 2 ^ 8 * z.toNat := by
  simp only [encodeZ, append_toNat_mul, BitVec.toNat_ofNat]
  omega

theorem encodeFX_toNat (opc : Byte) (sg : Signedness) (w : Width) (rm : Rounding)
    (fa fb fr : BitVec 6) :
    (encodeFX opc sg w rm fa fb fr).toNat =
      opc.toNat + 2 ^ 8 * (signednessCode sg).toNat + 2 ^ 9 * (widthCode w).toNat +
      2 ^ 11 * (roundingCode rm).toNat + 2 ^ 13 * fa.toNat + 2 ^ 19 * fb.toNat +
      2 ^ 25 * fr.toNat := by
  simp only [encodeFX, append_toNat_mul, BitVec.toNat_ofNat]
  omega

@[simp] theorem signednessOf_code (sg : Signedness) : signednessOf (signednessCode sg) = sg := by
  cases sg <;> rfl

@[simp] theorem widthOf_code (w : Width) : widthOf (widthCode w) = some w := by
  cases w <;> rfl

@[simp] theorem roundingOf_code (rm : Rounding) : roundingOf (roundingCode rm) = some rm := by
  cases rm <;> rfl

theorem signednessCode_of (c : BitVec 1) : signednessCode (signednessOf c) = c := by
  revert c; decide

theorem widthCode_of {c : BitVec 2} {w : Width} (h : widthOf c = some w) : widthCode w = c := by
  revert h; revert c; cases w <;> decide

theorem roundingCode_of {c : BitVec 2} {rm : Rounding} (h : roundingOf c = some rm) :
    roundingCode rm = c := by
  revert h; revert c; cases rm <;> decide

section FormatN

@[simp] theorem opcField_encodeN (opc : Byte) : opcField (encodeN opc) = opc := by
  have := opc.isLt
  exact BitVec.eq_of_toNat_eq (by rw [opcField_toNat, encodeN_toNat]; omega)

@[simp] theorem reservedN_encodeN (opc : Byte) : reservedN (encodeN opc) = 0 := by
  have := opc.isLt
  exact BitVec.eq_of_toNat_eq (by rw [reservedN_toNat, encodeN_toNat]; simp; omega)

end FormatN

section FormatZ

@[simp] theorem opcField_encodeZ (opc z : Byte) : opcField (encodeZ opc z) = opc := by
  have := opc.isLt
  exact BitVec.eq_of_toNat_eq (by rw [opcField_toNat, encodeZ_toNat]; omega)

@[simp] theorem zoneField_encodeZ (opc z : Byte) : zoneField (encodeZ opc z) = z := by
  have := opc.isLt
  have := z.isLt
  exact BitVec.eq_of_toNat_eq (by rw [zoneField_toNat, encodeZ_toNat]; omega)

@[simp] theorem reservedZ_encodeZ (opc z : Byte) : reservedZ (encodeZ opc z) = 0 := by
  have := opc.isLt
  have := z.isLt
  exact BitVec.eq_of_toNat_eq (by rw [reservedZ_toNat, encodeZ_toNat]; simp; omega)

end FormatZ

section FormatFX

variable (opc : Byte) (sg : Signedness) (w : Width) (rm : Rounding) (fa fb fr : BitVec 6)

/-- The fields of a format-FX word are the ones it was built from. -/
theorem fields_encodeFX :
    opcField (encodeFX opc sg w rm fa fb fr) = opc ∧
    reservedFX (encodeFX opc sg w rm fa fb fr) = 0 ∧
    sField (encodeFX opc sg w rm fa fb fr) = signednessCode sg ∧
    wField (encodeFX opc sg w rm fa fb fr) = widthCode w ∧
    rmField (encodeFX opc sg w rm fa fb fr) = roundingCode rm ∧
    faField (encodeFX opc sg w rm fa fb fr) = fa ∧
    fbField (encodeFX opc sg w rm fa fb fr) = fb ∧
    frField (encodeFX opc sg w rm fa fb fr) = fr := by
  have h0 := encodeFX_toNat opc sg w rm fa fb fr
  have h1 := opc.isLt
  have h2 := (signednessCode sg).isLt
  have h3 := (widthCode w).isLt
  have h4 := (roundingCode rm).isLt
  have h5 := fa.isLt
  have h6 := fb.isLt
  have h7 := fr.isLt
  refine ⟨?_, ?_, ?_, ?_, ?_, ?_, ?_, ?_⟩ <;> apply BitVec.eq_of_toNat_eq
  · rw [opcField_toNat]; omega
  · rw [reservedFX_toNat]; simp only [BitVec.ofNat_eq_ofNat, BitVec.toNat_ofNat]; omega
  · rw [sField_toNat]; omega
  · rw [wField_toNat]; omega
  · rw [rmField_toNat]; omega
  · rw [faField_toNat]; omega
  · rw [fbField_toNat]; omega
  · rw [frField_toNat]; omega

/-- A word with a clear bit 31 is built from its own fields. -/
theorem encodeFX_of_fields (v : Word) (hr : reservedFX v = 0) (hs : signednessCode sg = sField v)
    (hw : widthCode w = wField v) (hm : roundingCode rm = rmField v) :
    encodeFX (opcField v) sg w rm (faField v) (fbField v) (frField v) = v := by
  apply BitVec.eq_of_toNat_eq
  have h := congrArg BitVec.toNat hr
  rw [reservedFX_toNat] at h
  simp only [BitVec.ofNat_eq_ofNat, BitVec.toNat_ofNat] at h
  rw [encodeFX_toNat, hs, hw, hm, opcField_toNat, sField_toNat, wField_toNat, rmField_toNat,
    faField_toNat, fbField_toNat, frField_toNat]
  omega

/-- An opcode read from a word, from its number. -/
theorem opcField_eq {w : Word} {n : Nat} (h : (opcField w).toNat = n) :
    opcField w = BitVec.ofNat 8 n := by
  have := (opcField w).isLt
  exact BitVec.eq_of_toNat_eq (by rw [BitVec.toNat_ofNat, h]; omega)

/-- Everything a format-N word can decode to. -/
theorem decodeN_ok {i j : Instr} {w : Word} (h : decodeN i w = .ok j) :
    j = i ∧ encodeN (opcField w) = w := by
  unfold decodeN at h
  split at h
  · rename_i hr
    refine ⟨by cases h; rfl, BitVec.eq_of_toNat_eq ?_⟩
    have hr := congrArg BitVec.toNat hr
    rw [reservedN_toNat] at hr
    simp only [BitVec.ofNat_eq_ofNat, BitVec.toNat_ofNat] at hr
    rw [encodeN_toNat, opcField_toNat]
    omega
  · cases h

/-- Everything a format-Z word can decode to. -/
theorem decodeZ_ok {mk : Byte → Instr} {j : Instr} {w : Word} (h : decodeZ mk w = .ok j) :
    j = mk (zoneField w) ∧ encodeZ (opcField w) (zoneField w) = w := by
  unfold decodeZ at h
  split at h
  · rename_i hr
    refine ⟨by cases h; rfl, BitVec.eq_of_toNat_eq ?_⟩
    have hr := congrArg BitVec.toNat hr
    rw [reservedZ_toNat] at hr
    simp only [BitVec.ofNat_eq_ofNat, BitVec.toNat_ofNat] at hr
    rw [encodeZ_toNat, opcField_toNat, zoneField_toNat]
    omega
  · cases h

/-- Everything a format-FX word can decode to: the shared checks passed, the command's own check answered,
and the word is built from its fields. -/
theorem decodeFX_ok {mk : Signedness → Width → Rounding → Except DecodeError Instr} {j : Instr}
    {w : Word} (h : decodeFX mk w = .ok j) :
    ∃ wd rm, mk (signednessOf (sField w)) wd rm = .ok j ∧
      encodeFX (opcField w) (signednessOf (sField w)) wd rm (faField w) (fbField w) (frField w) = w := by
  unfold decodeFX at h
  split at h
  · split at h
    · cases h
    · split at h
      · cases h
      · exact ⟨_, _, h, encodeFX_of_fields _ _ _ w ‹_› (signednessCode_of _) (widthCode_of ‹_›)
          (roundingCode_of ‹_›)⟩
  · cases h

/-- The shared checks of format FX pass on an encoded word, and the command's own check is what is left. -/
theorem decodeFX_encodeFX (mk : Signedness → Width → Rounding → Except DecodeError Instr) :
    decodeFX mk (encodeFX opc sg w rm fa fb fr) = mk sg w rm := by
  obtain ⟨-, h2, h3, h4, h5, -⟩ := fields_encodeFX opc sg w rm fa fb fr
  simp only [decodeFX, h2, h3, h4, h5, ↓reduceIte, widthOf_code, roundingOf_code, signednessOf_code]

end FormatFX

/-- Everything a SAT word can decode to. -/
theorem decodeSat_ok {i : Instr} {w : Word} (h : decodeSat w = .ok i) :
    ∃ sg wd, i = .sat sg wd ∧ encodeFX (opcField w) sg wd .rd 0 0 0 = w := by
  obtain ⟨wd, rm, h, he⟩ := decodeFX_ok h
  split at h
  · split at h
    · rename_i hrm hf
      obtain ⟨f1, f2, f3⟩ := hf
      rw [f1, f2, f3, hrm] at he
      cases h
      exact ⟨_, _, rfl, he⟩
    · cases h
  · cases h

/-- Everything an SHR word can decode to. -/
theorem decodeShr_ok {i : Instr} {w : Word} (h : decodeShr w = .ok i) :
    ∃ sg wd rm sh, i = .shr sg wd rm sh ∧ encodeFX (opcField w) sg wd rm sh 0 0 = w := by
  obtain ⟨wd, rm, h, he⟩ := decodeFX_ok h
  split at h
  · rename_i hf
    obtain ⟨f1, f2⟩ := hf
    rw [f1, f2] at he
    cases h
    exact ⟨_, _, _, _, rfl, he⟩
  · cases h

/-- Everything a MUL word can decode to: a well-formed MUL. -/
theorem decodeMul_ok {i : Instr} {w : Word} (h : decodeMul w = .ok i) :
    ∃ sg wd rm fa fb fr, i = .mul sg wd rm fa fb fr ∧ i.wellFormed = true ∧
      encodeFX (opcField w) sg wd rm fa fb fr = w := by
  obtain ⟨wd, rm, h, he⟩ := decodeFX_ok h
  split at h
  · split at h
    · split at h
      · rename_i h1 h2 h3
        cases h
        exact ⟨_, _, _, _, _, _, rfl, by simp only [Instr.wellFormed, h1, h2, h3, Bool.and_self], he⟩
      · cases h
    · cases h
  · cases h

/-- Everything a DIV word can decode to: a well-formed DIV. -/
theorem decodeDiv_ok {i : Instr} {w : Word} (h : decodeDiv w = .ok i) :
    ∃ sg wd rm fa fb fr, i = .div sg wd rm fa fb fr ∧ i.wellFormed = true ∧
      encodeFX (opcField w) sg wd rm fa fb fr = w := by
  obtain ⟨wd, rm, h, he⟩ := decodeFX_ok h
  split at h
  · split at h
    · split at h
      · rename_i h1 h2 h3
        cases h
        exact ⟨_, _, _, _, _, _, rfl, by simp only [Instr.wellFormed, h1, h2, h3, Bool.and_self], he⟩
      · cases h
    · cases h
  · cases h

end Sys2Proof
end

