-- ==== Sys2Proof/Laws/Operands.lean ====
section
/-! SUPPORT. The operand forms as numbers: what each bit-field extraction and each packing reads as. -/

namespace Sys2Proof.Machine

theorem unpack_r_toNat (v : DWord) : (unpack v).r.toNat = v.toNat % 2 ^ 16 := by
  simp [unpack, BitVec.extractLsb'_toNat]

theorem unpack_g_toNat (v : DWord) : (unpack v).g.toNat = v.toNat / 2 ^ 16 % 2 ^ 16 := by
  simp [unpack, BitVec.extractLsb'_toNat, Nat.shiftRight_eq_div_pow]

theorem unpack_b_toNat (v : DWord) : (unpack v).b.toNat = v.toNat / 2 ^ 32 % 2 ^ 16 := by
  simp [unpack, BitVec.extractLsb'_toNat, Nat.shiftRight_eq_div_pow]

theorem calR_toNat (v : DWord) : (calR v).toNat = v.toNat % 2 ^ 8 := by
  simp [calR, BitVec.extractLsb'_toNat]

theorem calG_toNat (v : DWord) : (calG v).toNat = v.toNat / 2 ^ 8 % 2 ^ 8 := by
  simp [calG, BitVec.extractLsb'_toNat, Nat.shiftRight_eq_div_pow]

theorem calB_toNat (v : DWord) : (calB v).toNat = v.toNat / 2 ^ 16 % 2 ^ 8 := by
  simp [calB, BitVec.extractLsb'_toNat, Nat.shiftRight_eq_div_pow]

theorem sample8_toNat (v : DWord) : (sample8 v).toNat = v.toNat % 2 ^ 8 := by
  simp [sample8, BitVec.extractLsb'_toNat]

theorem sample16_toNat (v : DWord) : (sample16 v).toNat = v.toNat % 2 ^ 16 := by
  simp [sample16, BitVec.extractLsb'_toNat]

theorem periodOperand_toNat (v : DWord) : (periodOperand v).toNat = v.toNat % 2 ^ 32 := by
  simp [periodOperand, BitVec.extractLsb'_toNat]

theorem append_toNat {m n : Nat} (x : BitVec m) (y : BitVec n) :
    (x ++ y).toNat = x.toNat * 2 ^ n + y.toNat := by
  rw [BitVec.toNat_append, Nat.shiftLeft_eq, Nat.mul_comm, Nat.two_pow_add_eq_or_of_lt y.isLt]

/-- A packed colour as a number (R58). -/
theorem pack_toNat (c : Rgb) :
    (pack c).toNat = c.r.toNat + c.g.toNat * 2 ^ 16 + c.b.toNat * 2 ^ 32 := by
  simp only [pack, append_toNat, BitVec.toNat_ofNat, Nat.zero_mod]
  ring

/-- Packing and unpacking a colour is lossless (R58). -/
theorem unpack_pack (c : Rgb) : unpack (pack c) = c := by
  have hr := c.r.isLt
  have hg := c.g.isLt
  have hb := c.b.isLt
  have h1 := unpack_r_toNat (pack c)
  have h2 := unpack_g_toNat (pack c)
  have h3 := unpack_b_toNat (pack c)
  rw [pack_toNat] at h1 h2 h3
  cases c with
  | mk r g b =>
    simp only at hr hg hb h1 h2 h3
    have e1 : (unpack (pack ⟨r, g, b⟩)).r = r := BitVec.eq_of_toNat_eq (by omega)
    have e2 : (unpack (pack ⟨r, g, b⟩)).g = g := BitVec.eq_of_toNat_eq (by omega)
    have e3 : (unpack (pack ⟨r, g, b⟩)).b = b := BitVec.eq_of_toNat_eq (by omega)
    cases h : unpack (pack ⟨r, g, b⟩) with
    | mk r' g' b' => simp_all

theorem channel_toNat {x : Int} (h0 : 0 ≤ x) (h1 : x ≤ 65535) : ((channel x).toNat : Int) = x := by
  unfold channel
  rw [BitVec.toNat_ofInt]
  omega

theorem fieldWord_toInt {x : Int} (h0 : -(2 ^ 31) ≤ x) (h1 : x < 2 ^ 31) : (fieldWord x).toInt = x := by
  unfold fieldWord
  rw [BitVec.toInt_ofInt]
  rw [Int.bmod_def]
  split <;> omega

theorem resultWord_toInt {x : Int} (h0 : -(2 ^ 63) ≤ x) (h1 : x < 2 ^ 63) : (resultWord x).toInt = x := by
  unfold resultWord
  rw [BitVec.toInt_ofInt]
  rw [Int.bmod_def]
  split <;> omega

theorem halfOf_lo_toNat (v : DWord) : (halfOf false v).toNat = v.toNat % 2 ^ 32 := by
  simp [halfOf, BitVec.extractLsb'_toNat]

theorem halfOf_hi_toNat (v : DWord) : (halfOf true v).toNat = v.toNat / 2 ^ 32 := by
  have := v.isLt
  simp only [halfOf, ↓reduceIte, BitVec.extractLsb'_toNat, Nat.shiftRight_eq_div_pow]
  omega

/-- A written half reads back, and the other half keeps its value (R56). -/
theorem halfOf_withHalf (hi hi' : Bool) (v : DWord) (w : Word) :
    halfOf hi' (withHalf hi v w) = if hi' = hi then w else halfOf hi' v := by
  apply BitVec.eq_of_toNat_eq
  have hv := v.isLt
  have hw := w.isLt
  cases hi <;> cases hi' <;>
    simp only [halfOf, withHalf, Bool.false_eq_true, ↓reduceIte, reduceCtorEq, BitVec.extractLsb'_toNat, append_toNat,
      Nat.shiftRight_eq_div_pow] <;> omega

/-- The range of an operand (R76). -/
theorem operand_fits (sg : Signedness) (w : Width) (v : DWord) : FitsWidth sg w.bits (operand sg w v) := by
  cases sg with
  | unsigned =>
    have := (v.setWidth w.bits).isLt
    simp only [FitsWidth, operand]
    constructor
    · omega
    · exact_mod_cast this
  | signed =>
    have h1 := BitVec.le_two_mul_toInt (x := v.setWidth w.bits)
    have h2 := BitVec.two_mul_toInt_lt (x := v.setWidth w.bits)
    cases w <;> simp only [FitsWidth, operand, Width.bits] at * <;> omega

theorem boundOperand_eq (w : Width) (v : DWord) :
    boundOperand w v = ((v.toNat % 2 ^ w.bits : Nat) : Int) := by
  simp [boundOperand, BitVec.toNat_setWidth]

end Sys2Proof.Machine
end

