-- ==== Sys2Proof/Laws/State.lean ====
section
/-! SUPPORT. One lemma per field per named update of `State`, true by rfl. -/

namespace Sys2Proof.Machine

@[simp] theorem State.setY_a (s : State) (i : Fin 4) (v : DWord) :
    (s.setY i v).a = s.a := rfl

@[simp] theorem State.setY_y (s : State) (i : Fin 4) (v : DWord) :
    (s.setY i v).y = s.y.set i v := rfl

@[simp] theorem State.setY_rb (s : State) (i : Fin 4) (v : DWord) :
    (s.setY i v).rb = s.rb := rfl

@[simp] theorem State.setY_status (s : State) (i : Fin 4) (v : DWord) :
    (s.setY i v).status = s.status := rfl

@[simp] theorem State.setY_zones (s : State) (i : Fin 4) (v : DWord) :
    (s.setY i v).zones = s.zones := rfl

@[simp] theorem State.setY_params (s : State) (i : Fin 4) (v : DWord) :
    (s.setY i v).params = s.params := rfl

@[simp] theorem State.setY_bus (s : State) (i : Fin 4) (v : DWord) :
    (s.setY i v).bus = s.bus := rfl

@[simp] theorem State.setY_reply (s : State) (i : Fin 4) (v : DWord) :
    (s.setY i v).reply = s.reply := rfl

@[simp] theorem State.setA_a (s : State) (i : Fin 4) (v : DWord) :
    (s.setA i v).a = s.a.set i v := rfl

@[simp] theorem State.setA_y (s : State) (i : Fin 4) (v : DWord) :
    (s.setA i v).y = s.y := rfl

@[simp] theorem State.setA_rb (s : State) (i : Fin 4) (v : DWord) :
    (s.setA i v).rb = s.rb := rfl

@[simp] theorem State.setA_status (s : State) (i : Fin 4) (v : DWord) :
    (s.setA i v).status = s.status := rfl

@[simp] theorem State.setA_zones (s : State) (i : Fin 4) (v : DWord) :
    (s.setA i v).zones = s.zones := rfl

@[simp] theorem State.setA_params (s : State) (i : Fin 4) (v : DWord) :
    (s.setA i v).params = s.params := rfl

@[simp] theorem State.setA_bus (s : State) (i : Fin 4) (v : DWord) :
    (s.setA i v).bus = s.bus := rfl

@[simp] theorem State.setA_reply (s : State) (i : Fin 4) (v : DWord) :
    (s.setA i v).reply = s.reply := rfl

@[simp] theorem State.setRb_a (s : State) (i : Fin 16) (v : Word) :
    (s.setRb i v).a = s.a := rfl

@[simp] theorem State.setRb_y (s : State) (i : Fin 16) (v : Word) :
    (s.setRb i v).y = s.y := rfl

@[simp] theorem State.setRb_rb (s : State) (i : Fin 16) (v : Word) :
    (s.setRb i v).rb = s.rb.set i v := rfl

@[simp] theorem State.setRb_status (s : State) (i : Fin 16) (v : Word) :
    (s.setRb i v).status = s.status := rfl

@[simp] theorem State.setRb_zones (s : State) (i : Fin 16) (v : Word) :
    (s.setRb i v).zones = s.zones := rfl

@[simp] theorem State.setRb_params (s : State) (i : Fin 16) (v : Word) :
    (s.setRb i v).params = s.params := rfl

@[simp] theorem State.setRb_bus (s : State) (i : Fin 16) (v : Word) :
    (s.setRb i v).bus = s.bus := rfl

@[simp] theorem State.setRb_reply (s : State) (i : Fin 16) (v : Word) :
    (s.setRb i v).reply = s.reply := rfl

@[simp] theorem State.setRecordBuffer_a (s : State) (v : Vector Word 16) :
    (s.setRecordBuffer v).a = s.a := rfl

@[simp] theorem State.setRecordBuffer_y (s : State) (v : Vector Word 16) :
    (s.setRecordBuffer v).y = s.y := rfl

@[simp] theorem State.setRecordBuffer_rb (s : State) (v : Vector Word 16) :
    (s.setRecordBuffer v).rb = v := rfl

@[simp] theorem State.setRecordBuffer_status (s : State) (v : Vector Word 16) :
    (s.setRecordBuffer v).status = s.status := rfl

@[simp] theorem State.setRecordBuffer_zones (s : State) (v : Vector Word 16) :
    (s.setRecordBuffer v).zones = s.zones := rfl

@[simp] theorem State.setRecordBuffer_params (s : State) (v : Vector Word 16) :
    (s.setRecordBuffer v).params = s.params := rfl

@[simp] theorem State.setRecordBuffer_bus (s : State) (v : Vector Word 16) :
    (s.setRecordBuffer v).bus = s.bus := rfl

@[simp] theorem State.setRecordBuffer_reply (s : State) (v : Vector Word 16) :
    (s.setRecordBuffer v).reply = s.reply := rfl

@[simp] theorem State.setZone_a (s : State) (z : Byte) (zn : Zone) :
    (s.setZone z zn).a = s.a := rfl

@[simp] theorem State.setZone_y (s : State) (z : Byte) (zn : Zone) :
    (s.setZone z zn).y = s.y := rfl

@[simp] theorem State.setZone_rb (s : State) (z : Byte) (zn : Zone) :
    (s.setZone z zn).rb = s.rb := rfl

@[simp] theorem State.setZone_status (s : State) (z : Byte) (zn : Zone) :
    (s.setZone z zn).status = s.status := rfl

@[simp] theorem State.setZone_zones (s : State) (z : Byte) (zn : Zone) :
    (s.setZone z zn).zones = s.zones.set z.toNat zn := rfl

@[simp] theorem State.setZone_params (s : State) (z : Byte) (zn : Zone) :
    (s.setZone z zn).params = s.params := rfl

@[simp] theorem State.setZone_bus (s : State) (z : Byte) (zn : Zone) :
    (s.setZone z zn).bus = s.bus := rfl

@[simp] theorem State.setZone_reply (s : State) (z : Byte) (zn : Zone) :
    (s.setZone z zn).reply = s.reply := rfl

@[simp] theorem State.setZonePar_a (s : State) (z : Byte) (p : ZoneParams) :
    (s.setZonePar z p).a = s.a := rfl

@[simp] theorem State.setZonePar_y (s : State) (z : Byte) (p : ZoneParams) :
    (s.setZonePar z p).y = s.y := rfl

@[simp] theorem State.setZonePar_rb (s : State) (z : Byte) (p : ZoneParams) :
    (s.setZonePar z p).rb = s.rb := rfl

@[simp] theorem State.setZonePar_status (s : State) (z : Byte) (p : ZoneParams) :
    (s.setZonePar z p).status = s.status := rfl

@[simp] theorem State.setZonePar_zones (s : State) (z : Byte) (p : ZoneParams) :
    (s.setZonePar z p).zones = s.zones.set z.toNat { s.zone z with par := p } := rfl

@[simp] theorem State.setZonePar_params (s : State) (z : Byte) (p : ZoneParams) :
    (s.setZonePar z p).params = s.params := rfl

@[simp] theorem State.setZonePar_bus (s : State) (z : Byte) (p : ZoneParams) :
    (s.setZonePar z p).bus = s.bus := rfl

@[simp] theorem State.setZonePar_reply (s : State) (z : Byte) (p : ZoneParams) :
    (s.setZonePar z p).reply = s.reply := rfl

@[simp] theorem State.setZoneSt_a (s : State) (z : Byte) (st : ZoneState) :
    (s.setZoneSt z st).a = s.a := rfl

@[simp] theorem State.setZoneSt_y (s : State) (z : Byte) (st : ZoneState) :
    (s.setZoneSt z st).y = s.y := rfl

@[simp] theorem State.setZoneSt_rb (s : State) (z : Byte) (st : ZoneState) :
    (s.setZoneSt z st).rb = s.rb := rfl

@[simp] theorem State.setZoneSt_status (s : State) (z : Byte) (st : ZoneState) :
    (s.setZoneSt z st).status = s.status := rfl

@[simp] theorem State.setZoneSt_zones (s : State) (z : Byte) (st : ZoneState) :
    (s.setZoneSt z st).zones = s.zones.set z.toNat { s.zone z with st := st } := rfl

@[simp] theorem State.setZoneSt_params (s : State) (z : Byte) (st : ZoneState) :
    (s.setZoneSt z st).params = s.params := rfl

@[simp] theorem State.setZoneSt_bus (s : State) (z : Byte) (st : ZoneState) :
    (s.setZoneSt z st).bus = s.bus := rfl

@[simp] theorem State.setZoneSt_reply (s : State) (z : Byte) (st : ZoneState) :
    (s.setZoneSt z st).reply = s.reply := rfl

@[simp] theorem State.clearZones_a (s : State) :
    (s.clearZones).a = s.a := rfl

@[simp] theorem State.clearZones_y (s : State) :
    (s.clearZones).y = s.y := rfl

@[simp] theorem State.clearZones_rb (s : State) :
    (s.clearZones).rb = s.rb := rfl

@[simp] theorem State.clearZones_status (s : State) :
    (s.clearZones).status = s.status := rfl

@[simp] theorem State.clearZones_zones (s : State) :
    (s.clearZones).zones = s.zones.map fun _ => Zone.zero := rfl

@[simp] theorem State.clearZones_params (s : State) :
    (s.clearZones).params = s.params := rfl

@[simp] theorem State.clearZones_bus (s : State) :
    (s.clearZones).bus = s.bus := rfl

@[simp] theorem State.clearZones_reply (s : State) :
    (s.clearZones).reply = s.reply := rfl

@[simp] theorem platformReset_a (s : State) : (platformReset s).a = (State.resetWith s.params).a := rfl

@[simp] theorem platformReset_y (s : State) : (platformReset s).y = (State.resetWith s.params).y := rfl

@[simp] theorem platformReset_rb (s : State) : (platformReset s).rb = (State.resetWith s.params).rb := rfl

@[simp] theorem platformReset_status (s : State) : (platformReset s).status = (State.resetWith s.params).status := rfl

@[simp] theorem platformReset_zones (s : State) : (platformReset s).zones = (State.resetWith s.params).zones := rfl

@[simp] theorem platformReset_params (s : State) : (platformReset s).params = s.params := rfl

@[simp] theorem platformReset_bus (s : State) : (platformReset s).bus = s.bus := rfl

@[simp] theorem platformReset_reply (s : State) : (platformReset s).reply = (State.resetWith s.params).reply := rfl

@[simp] theorem State.resetWith_a (p : Params) : (State.resetWith p).a = Vector.replicate 4 0 := rfl

@[simp] theorem State.resetWith_y (p : Params) : (State.resetWith p).y = Vector.replicate 4 0 := rfl

@[simp] theorem State.resetWith_rb (p : Params) : (State.resetWith p).rb = Vector.replicate 16 0 := rfl

@[simp] theorem State.resetWith_status (p : Params) : (State.resetWith p).status = Status.clear := rfl

@[simp] theorem State.resetWith_zones (p : Params) : (State.resetWith p).zones = List.replicate p.numZones Zone.zero := rfl

@[simp] theorem State.resetWith_params (p : Params) : (State.resetWith p).params = p := rfl

@[simp] theorem State.resetWith_bus (p : Params) : (State.resetWith p).bus = [] := rfl

@[simp] theorem State.resetWith_reply (p : Params) : (State.resetWith p).reply = none := rfl

end Sys2Proof.Machine
end

