-- ==== Sys2Proof/Laws/Ops.lean ====
section
/-! SUPPORT. What the shared operations over the state do: the zone store, recording a fault, the zone
check. -/

namespace Sys2Proof.Machine

theorem byte_toNat_ne {z z' : Byte} (h : z' ≠ z) : z'.toNat ≠ z.toNat :=
  fun e => h (BitVec.eq_of_toNat_eq e)

/-- A replaced zone reads as what replaced it. -/
theorem zone_setZone_same {s : State} {z : Byte} (h : z.toNat < s.zones.length) (zn : Zone) :
    (s.setZone z zn).zone z = zn := by
  simp [State.zone, State.setZone, List.getD_eq_getElem?_getD, h]

/-- Replacing one zone leaves every other zone (R28). -/
theorem zone_setZone_ne (s : State) {z z' : Byte} (h : z' ≠ z) (zn : Zone) :
    (s.setZone z zn).zone z' = s.zone z' := by
  have := byte_toNat_ne h
  simp [State.zone, State.setZone, List.getD_eq_getElem?_getD, List.getElem?_set_ne this.symm]

/-- A zone's records after it is replaced: the new ones, or zero where the store does not reach. -/
theorem zone_setZone_cases (s : State) (z z' : Byte) (zn : Zone) :
    (s.setZone z zn).zone z' = s.zone z' ∨ (z' = z ∧ (s.setZone z zn).zone z' = zn) := by
  by_cases h : z' = z
  · subst h
    by_cases hl : z'.toNat < s.zones.length
    · exact .inr ⟨rfl, zone_setZone_same hl zn⟩
    · refine .inl ?_
      simp only [State.zone, State.setZone]
      rw [List.set_eq_of_length_le (by omega)]
  · exact .inl (zone_setZone_ne s h zn)

/-- Writing a zone's own records back changes nothing. -/
theorem setZone_self {s : State} {z : Byte} (h : z.toNat < s.zones.length) :
    s.setZone z (s.zone z) = s := by
  have : s.zones.set z.toNat (s.zone z) = s.zones := by
    simp [State.zone, List.getD_eq_getElem?_getD, h]
  simp only [State.setZone, this]

theorem zone_clearZones (s : State) (z : Byte) : s.clearZones.zone z = Zone.zero := by
  simp only [State.zone, State.clearZones, List.getD_eq_getElem?_getD, List.getElem?_map]
  cases s.zones[z.toNat]? <;> rfl

/-- Fault entry on a unit without a recorded fault (R283). -/
theorem raiseBy_eq {s : State} (h : s.status.fault = false) (c : Cause) (i : Instr) :
    raiseBy c i s = { s with status := faulted c i } := by
  simp [raiseBy, raiseFault, h, faulted]

/-- A recorded fault stays the first one: faults do not nest (R289, R297). -/
theorem raiseFault_of_fault {s : State} (h : s.status.fault = true) (c : Cause) (o z : Byte) :
    raiseFault c o z s = s := by
  simp [raiseFault, h]

/-- Everything fault entry can do: nothing, or the one record STATUS holds (R283, R289, R297). -/
theorem raiseFault_cases (c : Cause) (o z : Byte) (s : State) :
    (s.status.fault = true ∧ raiseFault c o z s = s) ∨
    (s.status.fault = false ∧ raiseFault c o z s =
      { s with status := { fault := true, cause := c, faultOpc := o, faultZone := z } }) := by
  cases h : s.status.fault with
  | true => exact .inl ⟨rfl, raiseFault_of_fault h c o z⟩
  | false => exact .inr ⟨rfl, by simp [raiseFault, h]⟩

/-- Recording a fault changes nothing but STATUS: no control transfer to a handler (R297). -/
theorem raiseFault_frame (c : Cause) (o z : Byte) (s : State) :
    raiseFault c o z s = { s with status := (raiseFault c o z s).status } := by
  unfold raiseFault
  split <;> rfl

theorem checkZone_valid {s : State} {z : Byte} (h : z.toNat < s.params.numZones) (i : Instr)
    (rest : State) : checkZone i z s rest = .next rest := by
  simp [checkZone, State.zoneValid, h]

theorem checkZone_invalid {s : State} {z : Byte} (h : s.params.numZones ≤ z.toNat) (i : Instr)
    (rest : State) : checkZone i z s rest = .next (raiseBy .badZone i s) := by
  simp [checkZone, State.zoneValid, Nat.not_lt.mpr h]

/-- Everything the zone check can do. -/
theorem checkZone_cases (i : Instr) (z : Byte) (s rest : State) :
    (z.toNat < s.params.numZones ∧ checkZone i z s rest = .next rest) ∨
    (s.params.numZones ≤ z.toNat ∧ checkZone i z s rest = .next (raiseBy .badZone i s)) := by
  by_cases h : z.toNat < s.params.numZones
  · exact .inl ⟨h, checkZone_valid h i rest⟩
  · exact .inr ⟨by omega, checkZone_invalid (by omega) i rest⟩

/-- The breathing state codes are the ones `brStateOf` reads (R36). -/
theorem brStateOf_code (b : BrState) : brStateOf (brStateCode b) = some b := by
  cases b <;> rfl

theorem brStateOf_none {c : Word} (h : 5 < c.toNat) : brStateOf c = none := by
  unfold brStateOf
  split <;> first | rfl | omega

theorem brStateOf_some {c : Word} (h : c.toNat ≤ 5) : ∃ b, brStateOf c = some b ∧ brStateCode b = c := by
  have : c = 0 ∨ c = 1 ∨ c = 2 ∨ c = 3 ∨ c = 4 ∨ c = 5 := by
    have h6 : c.toNat < 6 := by omega
    interval_cases hc : c.toNat
    · exact .inl (BitVec.eq_of_toNat_eq (by simpa using hc))
    · exact .inr (.inl (BitVec.eq_of_toNat_eq (by simpa using hc)))
    · exact .inr (.inr (.inl (BitVec.eq_of_toNat_eq (by simpa using hc))))
    · exact .inr (.inr (.inr (.inl (BitVec.eq_of_toNat_eq (by simpa using hc)))))
    · exact .inr (.inr (.inr (.inr (.inl (BitVec.eq_of_toNat_eq (by simpa using hc))))))
    · exact .inr (.inr (.inr (.inr (.inr (BitVec.eq_of_toNat_eq (by simpa using hc))))))
  rcases this with rfl | rfl | rfl | rfl | rfl | rfl
  · exact ⟨.startup, rfl, rfl⟩
  · exact ⟨.rampUp, rfl, rfl⟩
  · exact ⟨.topSeg, rfl, rfl⟩
  · exact ⟨.rampDown, rfl, rfl⟩
  · exact ⟨.bottomSeg, rfl, rfl⟩
  · exact ⟨.passthrough, rfl, rfl⟩

end Sys2Proof.Machine
end

