-- ==== Sys2Proof/Laws/Effects.lean ====
section
/-! SUPPORT. What the two step functions of the effect scheduler and the drift rule can do, said once: which
fields of the state record each part of a TICK may write, and how often it runs. -/

namespace Sys2Proof.Machine

theorem driftRuns_zero : driftRuns 0 = 1 := by decide

theorem driftRuns_pos {d : Word} (h : 0 < d.toInt) : driftRuns d = 2 := by
  unfold driftRuns
  rw [if_neg (by omega), if_pos h]

theorem driftRuns_neg {d : Word} (h : d.toInt < 0) : driftRuns d = 0 := by
  unfold driftRuns
  rw [if_neg (by omega), if_neg (by omega)]

theorem driftAfter_zero : driftAfter 0 = 0 := by decide

/-- A positive drift counter loses 1, a negative one gains 1 (R216). -/
theorem driftAfter_toInt_of_ne {d : Word} (h : d.toInt ≠ 0) :
    (driftAfter d).toInt = if 0 < d.toInt then d.toInt - 1 else d.toInt + 1 := by
  have h1 := BitVec.le_two_mul_toInt (x := d)
  have h2 := BitVec.two_mul_toInt_lt (x := d)
  unfold driftAfter
  rw [if_neg h]
  split <;> rw [fieldWord_toInt] <;> omega

/-- CC_STEP writes CC_IDX and OUT_H alone (R208). -/
theorem ccStep_frame (zp : ZoneParams) (st : ZoneState) :
    ccStep zp st = { st with ccIdx := (ccStep zp st).ccIdx, outH := (ccStep zp st).outH } := by
  unfold ccStep
  split <;> rfl

/-- CC_STEP with CC_EN = 1 (R208). -/
theorem ccStep_enabled {zp : ZoneParams} (h : zp.ccEn = true) (st : ZoneState) :
    ccStep zp st = { st with
      ccIdx := BitVec.ofNat 32 (nextHueIndex zp st)
      outH := fieldWord ((nextHueIndex zp st : Int) * zp.ccSlope.toInt % one) } := by
  rw [ccStep, if_pos h]

/-- CC_STEP with CC_EN = 0 (R208). -/
theorem ccStep_disabled {zp : ZoneParams} (h : zp.ccEn = false) (st : ZoneState) :
    ccStep zp st = { st with outH := st.inH } := by
  rw [ccStep, if_neg (by rw [h]; decide)]

/-- An index at or above the period, a period of 0 among them, wraps to 0 (R35, R208). -/
theorem nextHueIndex_wraps {zp : ZoneParams} {st : ZoneState}
    (h : zp.ccPeriod.toNat ≤ st.ccIdx.toNat) : nextHueIndex zp st = 0 := by
  rw [nextHueIndex, if_pos (by omega)]

/-- A hue reduced mod ONE fits its field. -/
theorem fieldWord_mod_one_toInt (x : Int) : (fieldWord (x % one)).toInt = x % one := by
  have h1 := Int.emod_nonneg x (by decide : one ≠ 0)
  have h2 := Int.emod_lt_of_pos x (by decide : 0 < one)
  have h3 : one = 134217728 := rfl
  rw [fieldWord_toInt] <;> omega

/-- BR_STEP writes BR_STATE, BR_SEG, BR_TICK and OUT_V alone (R209). -/
theorem brStep_frame (p : Params) (zp : ZoneParams) (st : ZoneState) :
    brStep p zp st = { st with
      brState := (brStep p zp st).brState
      brSeg := (brStep p zp st).brSeg
      brTick := (brStep p zp st).brTick
      outV := (brStep p zp st).outV } := by
  unfold brStep
  split
  · rfl
  · unfold brRampUp; split
    · split <;> rfl
    · rfl
  · unfold brTopSeg; split
    · split <;> rfl
    · rfl
  · unfold brRampDown; split
    · split <;> rfl
    · rfl
  · unfold brBottomSeg; split
    · split <;> rfl
    · rfl
  · rfl

/-- `t` is `s` but for the fields the colour cycle of a tick may write. -/
def SameButColor (s t : ZoneState) : Prop :=
  t = { s with ccIdx := t.ccIdx, outH := t.outH, ccDrift := t.ccDrift }

/-- `t` is `s` but for the fields the breathing of a tick may write. -/
def SameButBreath (s t : ZoneState) : Prop :=
  t = { s with
    brState := t.brState
    brSeg := t.brSeg
    brTick := t.brTick
    outV := t.outV
    brDrift := t.brDrift }

theorem tickColor_same (zp : ZoneParams) (st : ZoneState) : SameButColor st (tickColor zp st) := by
  refine applyTimes_keeps (P := SameButColor st) (fun x hx => ?_) _ _ rfl
  unfold SameButColor at hx ⊢
  rw [ccStep_frame, hx]

theorem tickBreath_same (p : Params) (zp : ZoneParams) (st : ZoneState) :
    SameButBreath st (tickBreath p zp st) := by
  refine applyTimes_keeps (P := SameButBreath st) (fun x hx => ?_) _ _ rfl
  unfold SameButBreath at hx ⊢
  rw [brStep_frame, hx]

/-- Running CC_STEP does not touch the drift counter it was adjusted by. -/
theorem tickColor_ccDrift (zp : ZoneParams) (st : ZoneState) :
    (tickColor zp st).ccDrift = driftAfter st.ccDrift := by
  refine applyTimes_keeps (P := fun x : ZoneState => x.ccDrift = driftAfter st.ccDrift) (fun x hx => ?_) _ _ rfl
  rw [ccStep_frame]; exact hx

theorem tickBreath_brDrift (p : Params) (zp : ZoneParams) (st : ZoneState) :
    (tickBreath p zp st).brDrift = driftAfter st.brDrift := by
  refine applyTimes_keeps (P := fun x : ZoneState => x.brDrift = driftAfter st.brDrift) (fun x hx => ?_) _ _ rfl
  rw [brStep_frame]; exact hx

/-- BR_STEP depends on a record only through its breathing fields and its input value: a record that differs
in its other fields steps alike. -/
theorem brStep_congr (p : Params) (zp : ZoneParams) {s t : ZoneState} (h1 : s.brState = t.brState)
    (h2 : s.brSeg = t.brSeg) (h3 : s.brTick = t.brTick) (h4 : s.inV = t.inV) :
    breathPhase (brStep p zp s) = breathPhase (brStep p zp t) ∧
    (brStep p zp s).outV = (brStep p zp t).outV := by
  have hu : rampUpSeg zp s = rampUpSeg zp t := by simp only [rampUpSeg, h2]
  have hd : rampDownSeg zp s = rampDownSeg zp t := by simp only [rampDownSeg, h2]
  have hb : ∀ n, bright p zp s n = bright p zp t n := fun n => by simp only [bright, h4]
  unfold brStep
  rw [h1]
  cases ht : t.brState with
  | startup => exact ⟨rfl, hb 0⟩
  | rampUp =>
    simp only [brRampUp, hu, hb]
    by_cases c1 : rampUpSeg zp t = zp.brRamp.toNat
    · by_cases c2 : 0 < zp.brTop.toNat
      · simp only [if_pos c1, if_pos c2, breathPhase, and_self]
      · simp only [if_pos c1, if_neg c2, breathPhase, h3, and_self]
    · simp only [if_neg c1, breathPhase, h1, h3, and_self]
  | topSeg =>
    simp only [brTopSeg, hb, h3]
    by_cases c1 : zp.brEn = true
    · by_cases c2 : t.brTick.toNat + 1 ≥ zp.brTop.toNat
      · simp only [if_pos c1, if_pos c2, breathPhase, and_self]
      · simp only [if_pos c1, if_neg c2, breathPhase, h1, h2, and_self]
    · simp only [if_neg c1, breathPhase, h1, h2, and_self]
  | rampDown =>
    simp only [brRampDown, hd, hb]
    by_cases c1 : rampDownSeg zp t = 0
    · by_cases c2 : 0 < zp.brBot.toNat
      · simp only [if_pos c1, if_pos c2, breathPhase, and_self]
      · simp only [if_pos c1, if_neg c2, breathPhase, and_self]
    · simp only [if_neg c1, breathPhase, h1, h3, and_self]
  | bottomSeg =>
    simp only [brBottomSeg, hb, h3]
    by_cases c1 : zp.brEn = true
    · by_cases c2 : t.brTick.toNat + 1 ≥ zp.brBot.toNat
      · simp only [if_pos c1, if_pos c2, breathPhase, and_self]
      · simp only [if_pos c1, if_neg c2, breathPhase, h1, h2, and_self]
    · simp only [if_neg c1, breathPhase, h1, h2, and_self]
  | passthrough => simp only [brPassthrough, breathPhase, h1, h2, h3, h4, and_self]

/-- The cubic reshape answers in [0, ONE] (R206). -/
theorem shapeCubic_bounds (p : Params) (l : Int) : 0 ≤ shapeCubic p l ∧ shapeCubic p l ≤ one :=
  clamp_bounds _ (by decide)

/-- Dividing ONE by a period fits a slope field (R201 to R203). -/
theorem slopeOf_toInt (n : Nat) : (slopeOf n).toInt = one / (n : Int) := by
  have h1 : 0 ≤ one / (n : Int) := Int.ediv_nonneg (by decide) (by omega)
  have h2 : one / (n : Int) ≤ one := Int.ediv_le_self _ (by decide)
  have h3 : one = 134217728 := rfl
  unfold slopeOf
  rw [fieldWord_toInt] <;> omega

end Sys2Proof.Machine
end

