-- ==== Sys2Proof/Laws/Exec.lean ====
section
/-! SUPPORT. What a command can do, said once: every command answers a next state, which either records one of
its faults and nothing else, or writes results, its own zone's records and, for GETPAR and GETST, the record
buffer. -/

namespace Sys2Proof.Machine

/-- The effect of a command that records no fault: only the parts it may write differ. -/
structure Effect (i : Instr) (s t : State) : Prop where
  frame : t = { s with y := t.y, rb := t.rb, zones := t.zones }
  rb : t.rb = s.rb ∨ ∃ z, i = .getpar z ∨ i = .getst z
  zones : t.zones = s.zones ∨
    (isFormatZ (opcodeOf i) = true ∧ ∃ zn, t.zones = s.zones.set (zoneOf i).toNat zn) ∨
    (i = .init ∧ t.zones = s.zones.map fun _ => Zone.zero)

theorem effect_setZone {i : Instr} {s : State} (h : isFormatZ (opcodeOf i) = true) (zn : Zone) :
    Effect i s (s.setZone (zoneOf i) zn) where
  frame := rfl
  rb := .inl rfl
  zones := .inr (.inl ⟨h, zn, rfl⟩)

theorem effect_setY {i : Instr} (s : State) (k : Fin 4) (v : DWord) : Effect i s (s.setY k v) where
  frame := rfl
  rb := .inl rfl
  zones := .inl rfl

/-- What a command answers: a fault it can raise, or its effect. -/
inductive Answer (i : Instr) (s : State) : Host.Outcome State Fault Refusal → Prop
  | fault (c : Cause) (h : canRaise i c ∨ (c = .illegalCmd ∧ i.wellFormed = false)) :
      Answer i s (.next (raiseBy c i s))
  | effect (t : State) (h : Effect i s t) : Answer i s (.next t)

theorem answer_checkZone {i : Instr} {s rest : State} (h : canRaise i .badZone)
    (hr : Answer i s (.next rest)) : Answer i s (checkZone i (zoneOf i) s rest) := by
  rcases checkZone_cases i (zoneOf i) s rest with ⟨_, e⟩ | ⟨_, e⟩
  · rw [e]; exact hr
  · rw [e]; exact .fault _ (.inl h)

/-- The one inversion lemma of `exec`. -/
theorem exec_answer (i : Instr) (s : State) : Answer i s (exec i s) := by
  cases i with
  | init => exact .effect _ ⟨rfl, .inl rfl, .inr (.inr ⟨rfl, rfl⟩)⟩
  | sat sg w => exact .effect _ (effect_setY s 0 _)
  | shr sg w rm sh => exact .effect _ (effect_setY s 0 _)
  | mul sg w rm fa fb fr =>
    show Answer _ s (execMul sg w rm fa fb fr s)
    unfold execMul
    split
    · exact .effect _ (effect_setY s 0 _)
    · exact .fault _ (.inr ⟨rfl, eq_false_of_ne_true ‹_›⟩)
  | div sg w rm fa fb fr =>
    show Answer _ s (execDiv sg w rm fa fb fr s)
    unfold execDiv
    split
    · split
      · exact .fault _ (.inl (.inl rfl))
      · split
        · exact .fault _ (.inl (.inr rfl))
        · exact .effect _ (effect_setY s 0 _)
    · exact .fault _ (.inr ⟨rfl, eq_false_of_ne_true ‹_›⟩)
  | gam8 => exact .effect _ (effect_setY s 0 _)
  | gam16 => exact .effect _ (effect_setY s 0 _)
  | gamrgb => exact .effect _ (effect_setY s 0 _)
  | rgb2hsv => exact .effect _ ⟨rfl, .inl rfl, .inl rfl⟩
  | hsv2rgb => exact .effect _ (effect_setY s 0 _)
  | calboost => exact .effect _ ⟨rfl, .inl rfl, .inl rfl⟩
  | ccreset z =>
    refine answer_checkZone (.inl rfl) ?_
    split
    · exact .fault _ (.inl (.inr rfl))
    · exact .effect _ (effect_setZone (i := .ccreset z) rfl _)
  | ccrecalc z =>
    refine answer_checkZone (.inl rfl) ?_
    split
    · exact .fault _ (.inl (.inr rfl))
    · exact .effect _ (effect_setZone (i := .ccrecalc z) rfl _)
  | brreset z =>
    refine answer_checkZone (.inl rfl) ?_
    split
    · exact .fault _ (.inl (.inr rfl))
    · exact .effect _ (effect_setZone (i := .brreset z) rfl _)
  | brpass z =>
    exact answer_checkZone (i := .brpass z) rfl (.effect _ (effect_setZone (i := .brpass z) rfl _))
  | tick z =>
    exact answer_checkZone (i := .tick z) rfl (.effect _ ⟨rfl, .inl rfl, .inr (.inl ⟨rfl, _, rfl⟩)⟩)
  | getpar z =>
    exact answer_checkZone (i := .getpar z) rfl (.effect _ ⟨rfl, .inr ⟨z, .inl rfl⟩, .inl rfl⟩)
  | setpar z =>
    exact answer_checkZone (i := .setpar z) rfl (.effect _ (effect_setZone (i := .setpar z) rfl _))
  | getst z =>
    exact answer_checkZone (i := .getst z) rfl (.effect _ ⟨rfl, .inr ⟨z, .inr rfl⟩, .inl rfl⟩)
  | setst z =>
    refine answer_checkZone (.inl rfl) ?_
    split
    · exact .fault _ (.inl (.inr rfl))
    · exact .effect _ (effect_setZone (i := .setst z) rfl _)

/-- Every command answers a next state: the spec's faults are records, not stops. -/
theorem exec_next (i : Instr) (s : State) : ∃ t, exec i s = .next t := by
  have h := exec_answer i s
  generalize exec i s = o at h ⊢
  cases h <;> exact ⟨_, rfl⟩

/-- What the next state of a command is. -/
theorem exec_cases {i : Instr} {s t : State} (h : exec i s = .next t) :
    (∃ c, t = raiseBy c i s ∧ (canRaise i c ∨ (c = .illegalCmd ∧ i.wellFormed = false))) ∨
    Effect i s t := by
  have ha := exec_answer i s
  rw [h] at ha
  cases ha with
  | fault c hc => exact .inl ⟨c, rfl, hc⟩
  | effect _ he => exact .inr he

/-- No command touches the operand registers, the parameters, the pending accesses or the reply. -/
theorem exec_frame {i : Instr} {s t : State} (h : exec i s = .next t) :
    t.a = s.a ∧ t.params = s.params ∧ t.bus = s.bus ∧ t.reply = s.reply := by
  rcases exec_cases h with ⟨c, rfl, _⟩ | he
  · rw [raiseBy, raiseFault_frame]; exact ⟨rfl, rfl, rfl, rfl⟩
  · rw [he.frame]; exact ⟨rfl, rfl, rfl, rfl⟩

/-- A command that records no fault keeps STATUS. -/
theorem Effect.status {i : Instr} {s t : State} (h : Effect i s t) : t.status = s.status := by
  rw [h.frame]

/-- No command changes the number of zones. -/
theorem exec_zones_length {i : Instr} {s t : State} (h : exec i s = .next t) :
    t.zones.length = s.zones.length := by
  rcases exec_cases h with ⟨c, rfl, _⟩ | he
  · rw [raiseBy, raiseFault_frame]
  · rcases he.zones with e | ⟨_, _, e⟩ | ⟨_, e⟩ <;> simp [e]

/-- The records of a zone after a command: as before, or the zone is the command's own, or INIT ran. -/
theorem exec_zone_cases {i : Instr} {s t : State} (h : exec i s = .next t) (z : Byte) :
    t.zone z = s.zone z ∨ (isFormatZ (opcodeOf i) = true ∧ z = zoneOf i) ∨ i = .init := by
  rcases exec_cases h with ⟨c, rfl, _⟩ | he
  · rw [raiseBy, raiseFault_frame]; exact .inl rfl
  · rcases he.zones with e | ⟨hf, zn, e⟩ | ⟨hi, _⟩
    · exact .inl (by simp only [State.zone, e])
    · by_cases hz : z = zoneOf i
      · exact .inr (.inl ⟨hf, hz⟩)
      · refine .inl ?_
        have := zone_setZone_ne s hz zn
        simpa only [State.zone, State.setZone, e] using this
    · exact .inr (.inr hi)

end Sys2Proof.Machine
end

