-- ==== Sys2Proof/Laws/PerInstr.lean ====
section
/-! SUPPORT. Statements made per constructor of `Instr`, about the command as syntax: the fields of its word
that a fault records. -/

namespace Sys2Proof.Laws

/-- The OPC field of a command's word is its opcode of R80, and the ZONE field of a format-Z word is its zone
id (R72, R73): what FAULT_OPC and FAULT_ZONE name (R283). -/
def RecordedFields.Statement (i : Instr) : Prop :=
  opcField (encode i) = opcodeOf i ∧ (isFormatZ (opcodeOf i) = true → zoneField (encode i) = zoneOf i)

theorem RecordedFields.init : RecordedFields.Statement .init :=
  ⟨opcField_encodeN _, nofun⟩

theorem RecordedFields.sat (sg : Signedness) (w : Width) : RecordedFields.Statement (.sat sg w) :=
  ⟨(fields_encodeFX _ _ _ _ _ _ _).1, nofun⟩

theorem RecordedFields.shr (sg : Signedness) (w : Width) (rm : Rounding) (sh : BitVec 6) :
    RecordedFields.Statement (.shr sg w rm sh) :=
  ⟨(fields_encodeFX _ _ _ _ _ _ _).1, nofun⟩

theorem RecordedFields.mul (sg : Signedness) (w : Width) (rm : Rounding) (fa fb fr : BitVec 6) :
    RecordedFields.Statement (.mul sg w rm fa fb fr) :=
  ⟨(fields_encodeFX _ _ _ _ _ _ _).1, nofun⟩

theorem RecordedFields.div (sg : Signedness) (w : Width) (rm : Rounding) (fa fb fr : BitVec 6) :
    RecordedFields.Statement (.div sg w rm fa fb fr) :=
  ⟨(fields_encodeFX _ _ _ _ _ _ _).1, nofun⟩

theorem RecordedFields.gam8 : RecordedFields.Statement .gam8 :=
  ⟨opcField_encodeN _, nofun⟩

theorem RecordedFields.gam16 : RecordedFields.Statement .gam16 :=
  ⟨opcField_encodeN _, nofun⟩

theorem RecordedFields.gamrgb : RecordedFields.Statement .gamrgb :=
  ⟨opcField_encodeN _, nofun⟩

theorem RecordedFields.rgb2hsv : RecordedFields.Statement .rgb2hsv :=
  ⟨opcField_encodeN _, nofun⟩

theorem RecordedFields.hsv2rgb : RecordedFields.Statement .hsv2rgb :=
  ⟨opcField_encodeN _, nofun⟩

theorem RecordedFields.calboost : RecordedFields.Statement .calboost :=
  ⟨opcField_encodeN _, nofun⟩

theorem RecordedFields.ccreset (z : Byte) : RecordedFields.Statement (.ccreset z) :=
  ⟨opcField_encodeZ _ _, fun _ => zoneField_encodeZ _ _⟩

theorem RecordedFields.ccrecalc (z : Byte) : RecordedFields.Statement (.ccrecalc z) :=
  ⟨opcField_encodeZ _ _, fun _ => zoneField_encodeZ _ _⟩

theorem RecordedFields.brreset (z : Byte) : RecordedFields.Statement (.brreset z) :=
  ⟨opcField_encodeZ _ _, fun _ => zoneField_encodeZ _ _⟩

theorem RecordedFields.brpass (z : Byte) : RecordedFields.Statement (.brpass z) :=
  ⟨opcField_encodeZ _ _, fun _ => zoneField_encodeZ _ _⟩

theorem RecordedFields.tick (z : Byte) : RecordedFields.Statement (.tick z) :=
  ⟨opcField_encodeZ _ _, fun _ => zoneField_encodeZ _ _⟩

theorem RecordedFields.getpar (z : Byte) : RecordedFields.Statement (.getpar z) :=
  ⟨opcField_encodeZ _ _, fun _ => zoneField_encodeZ _ _⟩

theorem RecordedFields.setpar (z : Byte) : RecordedFields.Statement (.setpar z) :=
  ⟨opcField_encodeZ _ _, fun _ => zoneField_encodeZ _ _⟩

theorem RecordedFields.getst (z : Byte) : RecordedFields.Statement (.getst z) :=
  ⟨opcField_encodeZ _ _, fun _ => zoneField_encodeZ _ _⟩

theorem RecordedFields.setst (z : Byte) : RecordedFields.Statement (.setst z) :=
  ⟨opcField_encodeZ _ _, fun _ => zoneField_encodeZ _ _⟩

end Sys2Proof.Laws
end

