-- ==== Sys2Proof/Laws/Window.lean ====
section
/-! SUPPORT. What a host event can do, said once: the window map at each offset, the three fates of a command
word, and the inversion of a read, a write and a step. -/

namespace Sys2Proof.Machine

theorem windowReg_operand (i : Fin 4) :
    windowReg (0x10 + 8 * i.val) = .operandHalf i false ∧
    windowReg (0x14 + 8 * i.val) = .operandHalf i true := by
  revert i; decide

theorem windowReg_result (i : Fin 4) :
    windowReg (0x30 + 8 * i.val) = .resultHalf i false ∧
    windowReg (0x34 + 8 * i.val) = .resultHalf i true := by
  revert i; decide

theorem windowReg_record (i : Fin 16) : windowReg (0x80 + 4 * i.val) = .recordWord i := by
  revert i; decide

/-- An offset of the window from its address (R50, R51). -/
theorem windowOffset_base (p : Params) {off : Nat} (h : off < windowBytes) :
    windowOffset p (p.fxledBase + off) = some off := by
  unfold windowOffset
  rw [if_pos (by omega), Nat.add_sub_cancel_left]

/-- While a fault is recorded a command word does nothing (R284). -/
theorem performCommand_faulted {s : State} (h : s.status.fault = true) (w : Word) :
    performCommand w s = .next s := by
  simp only [performCommand, h, ↓reduceIte]

/-- A legal word performs its command (R55). -/
theorem performCommand_legal {s : State} (h : s.status.fault = false) {w : Word} {i : Instr}
    (hd : decode w = .ok i) : performCommand w s = exec i s := by
  simp only [performCommand, h, hd, Bool.false_eq_true, ↓reduceIte]

/-- An illegal word only records the fault (R81). -/
theorem performCommand_illegal {s : State} (h : s.status.fault = false) {w : Word} {e : DecodeError}
    (hd : decode w = .error e) : performCommand w s = .next (raiseIllegalWord w s) := by
  simp only [performCommand, h, hd, Bool.false_eq_true, ↓reduceIte]

/-- Everything a command word can do. -/
theorem performCommand_cases (w : Word) (s : State) :
    (s.status.fault = true ∧ performCommand w s = .next s) ∨
    (s.status.fault = false ∧ ∃ i, decode w = .ok i ∧ performCommand w s = exec i s) ∨
    (s.status.fault = false ∧ (∃ e, decode w = .error e) ∧
      performCommand w s = .next (raiseIllegalWord w s)) := by
  cases hf : s.status.fault with
  | true => exact .inl ⟨rfl, performCommand_faulted hf w⟩
  | false =>
    cases hd : decode w with
    | ok i => exact .inr (.inl ⟨rfl, i, rfl, performCommand_legal hf hd⟩)
    | error e => exact .inr (.inr ⟨rfl, ⟨e, rfl⟩, performCommand_illegal hf hd⟩)

/-- Recording ILLEGAL_CMD or BUS_ERROR changes nothing but STATUS (R283). -/
theorem raiseIllegalWord_frame (w : Word) (s : State) :
    raiseIllegalWord w s = { s with status := (raiseIllegalWord w s).status } :=
  raiseFault_frame _ _ _ s

theorem raiseBusError_frame (s : State) :
    raiseBusError s = { s with status := (raiseBusError s).status } :=
  raiseFault_frame _ _ _ s

theorem raiseBusError_eq {s : State} (h : s.status.fault = false) :
    raiseBusError s =
      { s with status := { fault := true, cause := .busError, faultOpc := 0, faultZone := 0 } } := by
  simp [raiseBusError, raiseFault, h]

/-- What a legal write to a register can do: the command, one operand half, one record word, or nothing. -/
theorem writeReg_cases (s : State) (d : Word) (r : WindowReg) :
    (r = .cmd ∧ writeReg s d r = performCommand d s) ∨
    (∃ i hi, r = .operandHalf i hi ∧ writeReg s d r = .next (s.setA i (withHalf hi s.a[i] d))) ∨
    (∃ i, r = .recordWord i ∧ writeReg s d r = .next (s.setRb i d)) ∨
    writeReg s d r = .next s := by
  cases r with
  | cmd => exact .inl ⟨rfl, rfl⟩
  | status => exact .inr (.inr (.inr rfl))
  | cfgid => exact .inr (.inr (.inr rfl))
  | operandHalf i hi => exact .inr (.inl ⟨i, hi, rfl, rfl⟩)
  | resultHalf i hi => exact .inr (.inr (.inr rfl))
  | recordWord i => exact .inr (.inr (.inl ⟨i, rfl, rfl⟩))
  | reserved => exact .inr (.inr (.inr rfl))

/-- A read changes nothing but the reply and, for a bad access, STATUS (R52, R57). -/
theorem hostRead_frame (size : AccessSize) (off : Nat) (s : State) :
    hostRead size off s =
      { s with reply := (hostRead size off s).reply, status := (hostRead size off s).status } := by
  unfold hostRead
  split
  · rfl
  · rw [raiseBusError_frame]

/-- What a store inside the window can do. -/
theorem hostWrite_cases (size : AccessSize) (off : Nat) (d : Word) (s : State) :
    (aligned32 size off = true ∧
      hostWrite size off d s = writeReg { s with reply := none } d (windowReg off)) ∨
    (aligned32 size off = false ∧
      hostWrite size off d s = .next (raiseBusError { s with reply := none })) := by
  unfold hostWrite
  cases h : aligned32 size off <;> simp

/-- What a state keeps when a register write or a command answers: the parameters, the pending accesses and
the number of zones. -/
theorem writeReg_keeps {s t : State} {d : Word} {r : WindowReg} (h : writeReg s d r = .next t) :
    t.params = s.params ∧ t.bus = s.bus ∧ t.zones.length = s.zones.length := by
  rcases writeReg_cases s d r with ⟨_, e⟩ | ⟨i, hi, _, e⟩ | ⟨i, _, e⟩ | e
  · rw [e] at h
    rcases performCommand_cases d s with ⟨_, e⟩ | ⟨_, i, _, e⟩ | ⟨_, _, e⟩ <;> rw [e] at h
    · cases h; exact ⟨rfl, rfl, rfl⟩
    · obtain ⟨_, h2, h3, _⟩ := exec_frame h
      exact ⟨h2, h3, exec_zones_length h⟩
    · cases h; rw [raiseIllegalWord_frame]; exact ⟨rfl, rfl, rfl⟩
  all_goals
    rw [e] at h; cases h; exact ⟨rfl, rfl, rfl⟩

/-- A register write always answers a next state. -/
theorem writeReg_next (s : State) (d : Word) (r : WindowReg) : ∃ t, writeReg s d r = .next t := by
  rcases writeReg_cases s d r with ⟨_, e⟩ | ⟨i, hi, _, e⟩ | ⟨i, _, e⟩ | e
  · rw [e]
    rcases performCommand_cases d s with ⟨_, e⟩ | ⟨_, i, _, e⟩ | ⟨_, _, e⟩ <;> rw [e]
    · exact ⟨_, rfl⟩
    · exact exec_next i s
    · exact ⟨_, rfl⟩
  all_goals exact ⟨_, e⟩

/-- The platform's reset leaves every unit as its construction does, with the same parameters (R310). -/
theorem platformReset_eq (s : State) : platformReset s = { State.resetWith s.params with bus := s.bus } := rfl

theorem stepBus_cons {s : State} {e : HostEvent} {rest : List HostEvent} (h : s.bus = e :: rest) :
    stepBus s = hostEvent e { s with bus := rest } := by
  unfold stepBus
  rw [h]

/-- The reset, taken as an event, always answers. -/
theorem hostEvent_reset (s : State) : hostEvent .reset s = .next (platformReset s) := rfl

theorem withFetchWord_bus (s : State) (nbits w : Nat) :
    (s.withFetchWord nbits w).bus = .write .word 0x00 (tableWord nbits w) :: s.bus := rfl

end Sys2Proof.Machine
end

