-- ==== Sys2Proof/Tests/Slice0.lean ====
section
/-! SUPPORT. Tests: the field checks, words written out from the encoding tables, single steps against the
vectors of spec/95_test_vectors.md, and a witness for the hypotheses of every statement. -/

namespace Sys2Proof.Tests

open Sys2Proof.Machine

/-- The unit of spec/95_test_vectors.md: the defaults with DIE_LAMP_RATIO = 0x8000. -/
def testParams : Params := { Config.params with dieLampRatio := 0x8000, fxledBase := 0 }

def unit : State := State.resetWith testParams

/-- That unit with its operand registers A0 to A2. -/
def unitA (a0 a1 a2 : DWord) : State := { unit with a := #v[a0, a1, a2, 0] }

/-- That unit with the records of zone 0. -/
def unitZ (zp : ZoneParams) (st : ZoneState) : State := unit.setZone 0 { par := zp, st := st }

/-- That unit with a fault recorded. -/
def unitFaulted : State := { unit with status := faulted .divZero (.div .signed .w32 .rd 0 0 32) }

/-- A check on what an outcome answers. -/
def answers (o : Host.Outcome State Fault Refusal) (f : State → Bool) : Bool :=
  match o with
  | .next t => f t
  | .fault _ => false
  | .refused _ => false

/-- The result register 0 after a command. -/
def gives (o : Host.Outcome State Fault Refusal) (v : DWord) : Bool :=
  answers o fun t => decide (t.y[0] = v) && decide (statusWord t.status = 0)

/-- STATUS after a command that faults, with Y0 untouched. -/
def records (o : Host.Outcome State Fault Refusal) (v : Word) : Bool :=
  answers o fun t => decide (statusWord t.status = v) && decide (t.y[0] = 0)

/-! ### Field checks (R82, R83): an ill-formed term for each check -/

theorem test_wf_mul_width : (Instr.mul .signed .w64 .rd 0 0 0).wellFormed = false := by decide

theorem test_wf_mul_rounding : (Instr.mul .signed .w16 .ru 0 0 0).wellFormed = false := by decide

theorem test_wf_mul_rescale : (Instr.mul .signed .w32 .rd 0 0 1).wellFormed = false := by decide

theorem test_wf_mul_rescale_edge : (Instr.mul .signed .w32 .rd 0 1 1).wellFormed = true := by decide

theorem test_wf_div_width : (Instr.div .signed .w64 .rd 0 0 0).wellFormed = false := by decide

theorem test_wf_div_rounding : (Instr.div .signed .w16 .ru 0 0 0).wellFormed = false := by decide

theorem test_wf_div_rescale : (Instr.div .signed .w32 .rd 0 0 33).wellFormed = false := by decide

theorem test_wf_div_rescale_edge :
    (Instr.div .signed .w32 .rd 0 0 32).wellFormed = true := by decide

/-! ### Words written out field by field (R72, R73, R75, R80)

Format FX: reserved, FR, FB, FA, RM, W, S, OPC. Format Z: reserved, ZONE, OPC. -/

theorem test_decode_init : decode 0b000000000000000000000000_00000001 = .ok .init := by decide

theorem test_decode_gam8 : decode 0b000000000000000000000000_00100000 = .ok .gam8 := by decide

theorem test_decode_gam16 : decode 0b000000000000000000000000_00100001 = .ok .gam16 := by decide

theorem test_decode_gamrgb : decode 0b000000000000000000000000_00100010 = .ok .gamrgb := by decide

theorem test_decode_rgb2hsv : decode 0b000000000000000000000000_00110000 = .ok .rgb2hsv := by decide

theorem test_decode_hsv2rgb : decode 0b000000000000000000000000_00110001 = .ok .hsv2rgb := by decide

theorem test_decode_calboost :
    decode 0b000000000000000000000000_01000000 = .ok .calboost := by decide

theorem test_decode_sat :
    decode 0b0_000000_000000_000000_00_10_1_00010000 = .ok (.sat .signed .w64) := by decide

theorem test_decode_shr :
    decode 0b0_000000_000000_111111_01_01_0_00010001 = .ok (.shr .unsigned .w32 .ru 63) := by decide

theorem test_decode_mul :
    decode 0b0_000001_000010_000100_10_00_1_00010010 = .ok (.mul .signed .w16 .rn 4 2 1) :=
  by decide

theorem test_decode_div :
    decode 0b0_100000_000010_000100_00_01_0_00010011 = .ok (.div .unsigned .w32 .rd 4 2 32) :=
  by decide

theorem test_decode_ccreset :
    decode 0b0000000000000000_10000001_01010000 = .ok (.ccreset 129) := by decide

theorem test_decode_ccrecalc :
    decode 0b0000000000000000_10000001_01010001 = .ok (.ccrecalc 129) := by decide

theorem test_decode_brreset :
    decode 0b0000000000000000_10000001_01010010 = .ok (.brreset 129) := by decide

theorem test_decode_brpass :
    decode 0b0000000000000000_10000001_01010011 = .ok (.brpass 129) := by decide

theorem test_decode_tick :
    decode 0b0000000000000000_10000001_01010100 = .ok (.tick 129) := by decide

theorem test_decode_getpar :
    decode 0b0000000000000000_10000001_01100000 = .ok (.getpar 129) := by decide

theorem test_decode_setpar :
    decode 0b0000000000000000_10000001_01100001 = .ok (.setpar 129) := by decide

theorem test_decode_getst :
    decode 0b0000000000000000_10000001_01100010 = .ok (.getst 129) := by decide

theorem test_decode_setst :
    decode 0b0000000000000000_10000001_01100011 = .ok (.setst 129) := by decide

/-- The illegal words of 95_test_vectors.md 2.1. -/
theorem test_decode_illegal :
    decode 0x00000101 = .error .reservedBit ∧ decode 0x00010154 = .error .reservedBit ∧
    decode 0x00000710 = .error .width ∧ decode 0x00000910 = .error .rounding ∧
    decode 0x00001911 = .error .rounding ∧ decode 0x00080011 = .error .fixedField ∧
    decode 0x00000512 = .error .width ∧ decode 0x00000912 = .error .rounding ∧
    decode 0x42000313 = .error .rescale ∧ decode 0x80000012 = .error .reservedBit ∧
    decode 0x00000014 = .error .opcode := by decide

/-! ### One command on a small unit; the expected values are those of 95_test_vectors.md 2.2 to 2.13 -/

/-- S16 with a bound above 32767: the bound is read unsigned. -/
theorem test_sat_bound_is_unsigned :
    gives (exec (.sat .signed .w16)
      (unitA 0xFFFFFFFFFFFF8000 0x9C40 0)) 0xFFFFFFFFFFFF8000 = true := by decide

theorem test_sat_clamps_low :
    gives (exec (.sat .signed .w32)
      (unitA 0xFFFFFFFF80000000 0x7FFFFFFF 0)) 0xFFFFFFFF80000001 = true := by decide

theorem test_shr_ru_negative :
    gives (exec (.shr .signed .w32 .ru 4)
      (unitA 0xFFFFFFFFFFFFFFD8 0 0)) 0xFFFFFFFFFFFFFFFE = true := by decide

theorem test_shr_rn_above_width :
    gives (exec (.shr .unsigned .w16 .rn 16) (unitA 0xFFFF 0 0)) 1 = true := by decide

theorem test_mul_rd :
    gives (exec (.mul .signed .w32 .rd 27 27 27)
      (unitA 0xFFFFFFFFFFFFFFFD 1 0)) 0xFFFFFFFFFFFFFFFF = true := by decide

theorem test_mul_rn :
    gives (exec (.mul .signed .w32 .rn 27 27 27)
      (unitA 0xFFFFFFFFF8000000 0x04000000 0)) 0xFFFFFFFFFC000000 = true := by decide

theorem test_div_rd :
    gives (exec (.div .signed .w16 .rd 0 0 16)
      (unitA 7 0xFFFFFFFFFFFFFFFD 0)) 0xFFFFFFFFFFFDAAAA = true := by decide

theorem test_div_overflow :
    records (exec (.div .signed .w16 .rd 0 0 16)
      (unitA 0xFFFFFFFFFFFF8000 0xFFFFFFFFFFFFFFFF 0)) 0x00001371 = true := by decide

theorem test_gam8 : gives (exec .gam8 (unitA 0x1C0 0 0)) 137 = true := by decide +kernel

theorem test_gam16 : gives (exec .gam16 (unitA 0x4000 0 0)) 3171 = true := by decide +kernel

theorem test_gamrgb :
    gives (exec .gamrgb
      (unitA 0x0000C00040001000 0 0)) 0x000087F50C6300AD = true := by decide +kernel

theorem test_rgb2hsv :
    answers (exec .rgb2hsv
      (unitA 0x0000000300020001 0 0)) (fun t => decide (t.y = #v[78293675, 89478485, 6144, 0])) = true :=
  by decide +kernel

theorem test_rgb2hsv_wraps :
    gives (exec .rgb2hsv (unitA 0x0000FFFF0000FFFF 0 0)) 111848107 = true := by decide +kernel

theorem test_hsv2rgb :
    gives (exec .hsv2rgb
      (unitA 0x02AAAAAB 0x04000000 0x04000000)) 0x0000400080004000 = true := by decide +kernel

theorem test_hsv2rgb_wraps :
    gives (exec .hsv2rgb
      (unitA 0xFEAAAAAA 0x08000000 0x08000000)) 0x0000FFFF0000FFFF = true := by decide +kernel

theorem test_calboost :
    answers (exec .calboost
      (unitA 0x000027104E207530 0x3264C8 0)) (fun t => decide (t.y = #v[21474836, 0x000009C427107530, 0, 0])) = true :=
  by decide +kernel

theorem test_calboost_no_terms :
    answers (exec .calboost
      (unitA 0x0000FFFFFFFFFFFF 0 0)) (fun t => decide (t.y = #v[0, 0, 0, 0])) = true :=
  by decide +kernel

theorem test_init :
    answers (exec .init (unitZ { ZoneParams.zero with ccPeriod := 4 } ZoneState.zero))
      (fun t => decide (t.zones = [Zone.zero, Zone.zero])) = true := by decide

/-- E1. -/
theorem test_ccreset :
    answers (exec (.ccreset 0) (unitA 4 0 0)) (fun t => decide
      (t.zone 0 = { Zone.zero with par := { ZoneParams.zero with ccPeriod := 4, ccSlope := 0x02000000, ccEn := true } })) = true :=
  by decide +kernel

/-- E6. -/
theorem test_ccrecalc :
    answers (exec (.ccrecalc 0)
      { unitZ ZoneParams.zero { ZoneState.zero with outH := 0x04000000 } with a := #v[3, 0, 0, 0] })
      (fun t => decide ((t.zone 0).st.ccIdx = 1)) = true := by decide +kernel

/-- E8. -/
theorem test_brreset :
    answers (exec (.brreset 0) (unitA 7 0 0)) (fun t => decide ((t.zone 0).par =
      { ZoneParams.zero with brPeriod := 7, brRamp := 3, brSlope := 44739242, brEn := true })) = true :=
  by decide +kernel

/-- E9. -/
theorem test_brreset_period_zero :
    records (exec (.brreset 0) (unitA 1 0 0)) 0x00005251 = true := by decide

theorem test_brpass :
    answers (exec (.brpass 1) unit) (fun t => decide ((t.zone 1).st.brState = .passthrough)) = true :=
  by decide

/-- E16: the last TICK. -/
theorem test_tick :
    gives (exec (.tick 0) (unitZ
      { ZoneParams.zero with ccPeriod := 4, ccSlope := 0x02000000, ccEn := true }
      { ZoneState.zero with brState := .passthrough, inV := 0x08000000 })) 0x00000000FFFF8000 = true :=
  by decide +kernel

/-- E15. -/
theorem test_tick_ramp :
    answers (exec (.tick 0) (unitZ
      { ZoneParams.zero with brRamp := 4, brSlope := 0x02000000, brEn := true }
      { ZoneState.zero with brState := .rampUp, brSeg := 100, inV := 0x08000000 }))
      (fun t => decide ((t.zone 0).st.brSeg = 4 ∧ (t.zone 0).st.brState = .rampDown ∧
        (t.zone 0).st.outV = 0x08000000)) = true := by decide +kernel

/-- R-1. -/
theorem test_getpar :
    answers (exec (.getpar 0) (unitZ
      { ZoneParams.zero with ccPeriod := 4, ccSlope := 0x02000000, ccEn := true } ZoneState.zero))
      (fun t => decide (t.rb = #v[4, 0x02000000, 1, 0, 0, 0, 0, 0, 0, 0, 0, 0, 0, 0, 0, 0])) = true :=
  by decide

/-- R-2. -/
theorem test_setpar :
    answers (exec (.setpar 0)
      { unit with rb := #v[4, 0x02000000, 0x1F, 8, 2, 3, 5, 0x04000000, 0, 0, 0, 0, 0, 0, 0, 0] })
      (fun t => decide ((t.zone 0).par =
        { ccPeriod := 4, ccSlope := 0x02000000, ccEn := true, brPeriod := 8, brRamp := 2, brTop := 3,
          brBot := 5, brSlope := 0x04000000, brEn := true, brTopEn := true, brBotEn := true,
          brCubicEn := true })) = true := by decide

/-- R-7. -/
theorem test_getst :
    answers (exec (.getst 0)
      (unitZ ZoneParams.zero { ZoneState.zero with outRgb := ⟨0x5678, 0x1234, 0x9ABC⟩ }))
      (fun t => decide (t.rb[10] = 0x12345678 ∧ t.rb[11] = 0x00009ABC)) = true := by decide

/-- R-6. -/
theorem test_setst_bad_record :
    records (exec (.setst 1) (unit.setRb 3 6)) 0x00016341 = true := by decide

theorem test_setst :
    answers (exec (.setst 1) ((unit.setRb 3 5).setRb 10 0x12345678))
      (fun t => decide ((t.zone 1).st.brState = .passthrough ∧ (t.zone 1).st.outRgb = ⟨0x5678, 0x1234, 0⟩)) = true :=
  by decide

/-- E18. -/
theorem test_bad_zone : records (exec (.tick 2) unit) 0x00025431 = true := by decide

/-- F-8 and F-9: bad accesses; F-12: the halves of a register. -/
theorem test_byte_write :
    records (step { unit with bus := [.write .byte 0x10 1] }) 0x00000021 = true := by decide

theorem test_unaligned_read :
    answers (step { unit with bus := [.read .word 0x06] })
      (fun t => decide (t.reply = some 0 ∧ statusWord t.status = 0x00000021)) = true := by decide

theorem test_read_high_half :
    answers (step { unitA 0x1122334455667788 0 0 with bus := [.read .word 0x14] })
      (fun t => decide (t.reply = some 0x11223344)) = true := by decide

/-- F-14. -/
theorem test_cfgid : cfgidWord testParams = 0x00000A02 := by decide

/-- A row of the opcode table placed at reset is the next step's command, and the reset unit is idle. -/
theorem test_fetch :
    records (step (State.reset.withFetchWord 32 0x00000013)) 0x00001361 = true := by decide

theorem test_reset_idles : step State.reset = .next State.reset := rfl

/-! ### Witnesses: for each statement a concrete input that meets all of its hypotheses, and for a statement
with several clauses one for each clause, at a boundary where it has one -/

theorem witness_DecodeOfEncodeIsTheCommand :
    (Instr.div .unsigned .w32 .rn 63 32 63).wellFormed = true := by decide

theorem witness_EncodeOfDecodeIsTheWord : ∃ i, decode 0x36DB7312 = .ok i := ⟨_, rfl⟩

theorem witness_StepPerformsTheDecodedCommand :
    ∃ (s : State) (w : Word) (rest : List HostEvent) (i : Instr),
      s.bus = .write .word 0x00 w :: rest ∧ s.status.fault = false ∧ decode w = .ok i :=
  ⟨{ unit with bus := [.write .word 0x00 0x00000154] }, _, _, _, rfl, rfl, rfl⟩

theorem witness_IllegalWordOnlyRecordsIllegalCmd :
    ¬ legalWord 0x00010154 ∧ ¬ legalWord 0x42000313 ∧
      { unit with bus := [.write .word 0x00 0x00010154] }.status.fault = false := by
  unfold legalWord
  exact ⟨by simp, by simp, rfl⟩

theorem witness_FaultedUnitRefusesCommands :
    { unitFaulted with bus := [.write .word 0x00 1] }.bus = .write .word 0x00 1 :: [] ∧
      unitFaulted.status.fault = true := by decide

theorem witness_StatusKeepsTheFirstFault :
    ∃ (s t : State) (e : HostEvent) (rest : List HostEvent),
      s.bus = e :: rest ∧ e ≠ .reset ∧ s.status.fault = true ∧ step s = .next t :=
  ⟨{ unitFaulted with bus := [.write .byte 0x10 1] }, _, _, _, rfl, by decide, rfl, rfl⟩

theorem witness_BadAccessOnlyRecordsBusError :
    ∀ x ∈ [(AccessSize.byte, 0x00), (.half, 0xFC), (.dword, 0x10), (.word, 0xFF)],
      x.2 < 0x100 ∧ (x.1 ≠ .word ∨ x.2 % 4 ≠ 0) ∧
      { unit with bus := [.read x.1 x.2] }.bus = .read x.1 x.2 :: [] ∧
      { unit with bus := [.write x.1 x.2 7] }.bus = .write x.1 x.2 7 :: [] := by decide

/-- The first and the last offset of every clause. -/
theorem witness_WindowReadReturnsTheMappedRegister :
    ∀ off ∈ [0x00, 0x04, 0x08, 0x0C, 0x10, 0x14, 0x28, 0x2C, 0x30, 0x34, 0x48, 0x4C, 0x50, 0x7C, 0x80, 0xBC,
        0xC0, 0xFC],
      { unit with bus := [.read .word off] }.bus = .read .word off :: [] ∧ off < 0x100 ∧ off % 4 = 0 ∧
      (off = 0x00 ∨ off = 0x04 ∨ off = 0x08 ∨ (∃ i : Fin 4, off = 0x10 + 8 * i.val) ∨
        (∃ i : Fin 4, off = 0x14 + 8 * i.val) ∨ (∃ i : Fin 4, off = 0x30 + 8 * i.val) ∨
        (∃ i : Fin 4, off = 0x34 + 8 * i.val) ∨ (∃ i : Fin 16, off = 0x80 + 4 * i.val) ∨
        (off = 0x0C ∨ (0x50 ≤ off ∧ off < 0x80) ∨ 0xC0 ≤ off)) := by decide +kernel

theorem witness_WindowWriteChangesOnlyItsRegister :
    ∀ off ∈ [0x04, 0x08, 0x0C, 0x10, 0x2C, 0x30, 0x4C, 0x50, 0x7C, 0x80, 0xBC, 0xC0, 0xFC],
      { unit with bus := [.write .word off 7] }.bus = .write .word off 7 :: [] ∧ off < 0x100 ∧
      off % 4 = 0 ∧ off ≠ 0x00 := by decide

theorem witness_StatusAndCfgidReadAsTheirFields :
    { testParams with numZones := 1, gammaOrder := 1 }.wellFormed = true ∧
      { testParams with numZones := 256, gammaOrder := 5 }.wellFormed = true := by decide +kernel

theorem witness_StepStopsExactlyOutsideTheWindow :
    unit.bus = [] ∧ (HostEvent.read .word 0xFF).inWindow = true ∧
      (HostEvent.read .word 0x100).inWindow = false ∧
      { unit with bus := [.read .word 0x100] }.bus = .read .word 0x100 :: [] := by decide

theorem witness_SafeRunNeverStops :
    { unit with bus := [.write .byte 0xFF 0, .reset] }.safeBus = true := by decide

theorem witness_ResetZeroesTheUnit :
    { unitFaulted with bus := [.reset, .reset] }.bus = .reset :: [.reset] := by decide

theorem witness_ConstructionRefusesBadParameters :
    testParams.wellFormed = true ∧ { testParams with numZones := 0 }.wellFormed = false ∧
      { testParams with numZones := 257 }.wellFormed = false ∧
      { testParams with gammaOrder := 6 }.wellFormed = false ∧
      { testParams with gamma8Table := testParams.gamma8Table.set 0 1 }.wellFormed = false :=
  by decide +kernel

theorem unit_inv : unit.Inv := by
  unfold State.Inv; decide +kernel

theorem witness_StepKeepsTheInvariant :
    ∃ t, { unit with bus := [.write .word 0x00 0] }.Inv ∧
      step { unit with bus := [.write .word 0x00 0] } = .next t := ⟨_, unit_inv, rfl⟩

theorem witness_FaultChangesNothingButStatus :
    ∃ (i : Instr) (t : State), i.wellFormed = true ∧ unit.status.fault = false ∧ exec i unit = .next t ∧
      t.status ≠ unit.status :=
  ⟨.div .signed .w32 .rd 0 0 32, _, by decide, rfl, rfl, by decide⟩

theorem witness_BadZoneComesFirst :
    unit.params.numZones ≤ (2 : Byte).toNat ∧ unit.status.fault = false ∧
      Instr.setst 2 ∈ [Instr.tick 2, .setst 2] := by decide

theorem witness_CommandsKeepTheHostRegisters : ∃ t, exec (.getpar 0) unit = .next t := ⟨_, rfl⟩

/-- Two units that differ in zone 1 alone, and a TICK of zone 0. -/
theorem witness_ZonesDoNotInterfere :
    ∃ t t', isFormatZ (opcodeOf (.tick 0)) = true ∧
      unit.setZone 1 { Zone.zero with par := { ZoneParams.zero with ccPeriod := 9 } } =
        { unit with zones :=
          (unit.setZone 1 { Zone.zero with par := { ZoneParams.zero with ccPeriod := 9 } }).zones } ∧
      unit.zones.length =
        (unit.setZone 1 { Zone.zero with par := { ZoneParams.zero with ccPeriod := 9 } }).zones.length ∧
      unit.zone (zoneOf (.tick 0)) =
        (unit.setZone 1 { Zone.zero with par := { ZoneParams.zero with ccPeriod := 9 } }).zone
          (zoneOf (.tick 0)) ∧
      exec (.tick 0) unit = .next t ∧
      exec (.tick 0) (unit.setZone 1 { Zone.zero with par := { ZoneParams.zero with ccPeriod := 9 } }) =
        .next t' := ⟨_, _, rfl, rfl, rfl, rfl, rfl, rfl⟩

/-- A unit whose RB words are all 1, the code of RAMP_UP among them. -/
def unitOnes : State := { unit with rb := Vector.replicate 16 1 }

/-- A SETPAR that changes the colour-cycle and the breathing configuration, one that changes a flag, and a
SETST that changes every other field. -/
theorem witness_RecordFieldsChangeOnlyByTheirWriters :
    ∃ t u v : State, exec (.setpar 0) unitOnes = .next t ∧ unitOnes.zone 0 = Zone.zero ∧
      (t.zone 0).par.ccPeriod ≠ 0 ∧ (t.zone 0).par.brPeriod ≠ 0 ∧
      exec (.setpar 0) (unit.setRb 2 4) = .next u ∧ (u.zone 0).par.brTopEn ≠ false ∧
      exec (.setst 0) unitOnes = .next v ∧ (v.zone 0).st.ccIdx ≠ 0 ∧ (v.zone 0).st.brSeg ≠ 0 ∧
      (v.zone 0).st.brState ≠ .startup ∧ (v.zone 0).st.inH ≠ 0 ∧ (v.zone 0).st.outV ≠ 0 ∧
      (v.zone 0).st.brDrift ≠ 0 :=
  ⟨_, _, _, rfl, by decide, by decide, by decide, rfl, by decide, rfl, by decide, by decide, by decide,
    by decide, by decide, by decide⟩

theorem witness_PassthroughIsEnteredAndLeftExplicitly :
    ∃ t u : State, exec (.brpass 0) unit = .next t ∧ (t.zone 0).st.brState = .passthrough ∧
      (unit.zone 0).st.brState ≠ .passthrough ∧
      exec .init (unitZ ZoneParams.zero { ZoneState.zero with brState := .passthrough }) = .next u ∧
      ((unitZ ZoneParams.zero { ZoneState.zero with brState := .passthrough }).zone 0).st.brState =
        .passthrough ∧ (u.zone 0).st.brState ≠ .passthrough :=
  ⟨_, _, rfl, by decide, by decide, rfl, by decide, by decide⟩

theorem witness_SatClampsToTheBound :
    (0x4E20 : Int) = (((unitA 0 0x14E20 0).a[1].toNat % 2 ^ Width.w16.bits : Nat) : Int) :=
  by decide

theorem witness_MulRoundsTheExactProduct :
    (Instr.mul .signed .w32 .rn 27 27 54).wellFormed = true ∧
      0 + (54 : BitVec 6).toNat = (27 : BitVec 6).toNat + (27 : BitVec 6).toNat := by decide

theorem witness_DivRoundsTheExactQuotient :
    (Instr.div .signed .w16 .rd 0 0 16).wellFormed = true ∧
      0 + (0 : BitVec 6).toNat + (16 : BitVec 6).toNat = (0 : BitVec 6).toNat + Width.w16.bits ∧
      (-32768 : Int) = operand .signed .w16 (unitA 0x8000 1 0).a[0] ∧
      (1 : Int) = operand .signed .w16 (unitA 0x8000 1 0).a[1] ∧ (1 : Int) ≠ 0 ∧
      ¬ (Signedness.signed = .signed ∧ (-32768 : Int) = -(2 ^ (Width.w16.bits - 1)) ∧ (1 : Int) = -1 ∧ 0 = 0) :=
  by decide

theorem witness_DivFaultsOnZeroAndOverflow :
    (Instr.div .signed .w16 .rd 0 0 16).wellFormed = true ∧ unit.status.fault = false ∧
      operand .signed .w16 (unitA 0x8000 0 0).a[1] = 0 ∧
      operand .signed .w16 (unitA 0x8000 0xFFFF 0).a[0] = -(2 ^ (Width.w16.bits - 1)) ∧
      operand .signed .w16 (unitA 0x8000 0xFFFF 0).a[1] = -1 ∧
      (0 : BitVec 6).toNat + (16 : BitVec 6).toNat = (0 : BitVec 6).toNat + Width.w16.bits :=
  by decide

theorem witness_Gam8ReadsTheTable :
    (unitA 0x1FF 0 0).a[0].toNat % 2 ^ 8 = (255 : Fin 256).val := by decide

theorem witness_Gam8IsMonotone :
    ∃ t t', testParams.wellFormed = true ∧ (unitA 4 0 0).params = (unitA 3 0 0).params ∧
      (unitA 3 0 0).a[0].toNat % 2 ^ 8 ≤ (unitA 4 0 0).a[0].toNat % 2 ^ 8 ∧
      exec .gam8 (unitA 3 0 0) = .next t ∧ exec .gam8 (unitA 4 0 0) = .next t' :=
  ⟨_, _, by decide +kernel, rfl, by decide, rfl, rfl⟩

theorem witness_Gam16DenormalisesTheClampedPower :
    (0xFFFF : Int) = (((unitA 0x1FFFF 0 0).a[0].toNat % 2 ^ 16 : Nat) : Int) := by decide

theorem witness_Gam16IsExactAtTheEnds :
    testParams.wellFormed = true ∧ (unitA 0x10000 0 0).a[0].toNat % 2 ^ 16 = 0 ∧
      (unitA 0xFFFF 0 0).a[0].toNat % 2 ^ 16 = 65535 ∧ (unitA 0xFFFF 0 0).params.gammaCoef[0].toInt = 2 ^ 27 :=
  by decide +kernel

/-- A coloured operand and a gray one (d = 0). -/
theorem witness_Rgb2hsvFollowsTheFormula :
    ∀ x ∈ [((0x000300020001 : DWord), ((1 : Int), (2 : Int), (3 : Int))), (0x000700070007, (7, 7, 7))],
      x.2.1 = (((unitA x.1 0 0).a[0].toNat % 2 ^ 16 : Nat) : Int) ∧
      x.2.2.1 = (((unitA x.1 0 0).a[0].toNat / 2 ^ 16 % 2 ^ 16 : Nat) : Int) ∧
      x.2.2.2 = (((unitA x.1 0 0).a[0].toNat / 2 ^ 32 % 2 ^ 16 : Nat) : Int) ∧
      ∃ d ∈ [(0 : Int), 2],
        d = max (max x.2.1 x.2.2.1) x.2.2.2 - min (min x.2.1 x.2.2.1) x.2.2.2 := by decide

theorem witness_Rgb2hsvStaysInRange :
    ∃ t, exec .rgb2hsv (unitA 0x000700070007 0 0) = .next t ∧
      (unitA 0x000700070007 0 0).a[0].toNat % 2 ^ 16 =
        (unitA 0x000700070007 0 0).a[0].toNat / 2 ^ 16 % 2 ^ 16 ∧
      (unitA 0x000700070007 0 0).a[0].toNat % 2 ^ 16 =
        (unitA 0x000700070007 0 0).a[0].toNat / 2 ^ 32 % 2 ^ 16 := ⟨_, rfl, by decide, by decide⟩

theorem witness_Hsv2rgbFollowsTheSextants :
    (-1 : Int) = ((unitA 0xFFFFFFFF 0x08000000 5).a[0].setWidth 32).toInt ∧
      (0x08000000 : Int) = ((unitA 0xFFFFFFFF 0x08000000 5).a[1].setWidth 32).toInt ∧
      (5 : Int) = ((unitA 0xFFFFFFFF 0x08000000 5).a[2].setWidth 32).toInt := by decide

theorem witness_Hsv2rgbWrapsTheHue :
    ∃ t t', ((unitA 0x10000005 1 2).a[0].setWidth 32).toInt =
        ((unitA 5 1 2).a[0].setWidth 32).toInt + 2 * 2 ^ 27 ∧
      (unitA 0x10000005 1 2).a[1].setWidth 32 = (unitA 5 1 2).a[1].setWidth 32 ∧
      (unitA 0x10000005 1 2).a[2].setWidth 32 = (unitA 5 1 2).a[2].setWidth 32 ∧
      exec .hsv2rgb (unitA 5 1 2) = .next t ∧ exec .hsv2rgb (unitA 0x10000005 1 2) = .next t' :=
  ⟨_, _, by decide, rfl, rfl, rfl, rfl⟩

theorem witness_ColourRoundTripWithinTwo :
    ∃ t u : State, exec .rgb2hsv (unitA 0x000300020001 0 0) = .next t ∧
      exec .hsv2rgb { t with a := #v[t.y[0], t.y[1], t.y[2], t.a[3]] } = .next u := ⟨_, _, rfl, rfl⟩

/-- A colour with a gain, and one whose four terms are 0. -/
theorem witness_CalboostFollowsTheFormula :
    ∀ x ∈ [((0x000300020001 : DWord), (0x0302FF : DWord), ((255 : Int), (4 : Int), (9 : Int))),
        (0x000300020001, 0, (0, 0, 0))],
      x.2.2.1 = 1 * (((unitA x.1 x.2.1 0).a[1].toNat % 2 ^ 8 : Nat) : Int) ∧
      x.2.2.2.1 = 2 * (((unitA x.1 x.2.1 0).a[1].toNat / 2 ^ 8 % 2 ^ 8 : Nat) : Int) ∧
      x.2.2.2.2 = 3 * (((unitA x.1 x.2.1 0).a[1].toNat / 2 ^ 16 % 2 ^ 8 : Nat) : Int) ∧
      (1 : Int) = (((unitA x.1 x.2.1 0).a[0].toNat % 2 ^ 16 : Nat) : Int) ∧
      (2 : Int) = (((unitA x.1 x.2.1 0).a[0].toNat / 2 ^ 16 % 2 ^ 16 : Nat) : Int) ∧
      (3 : Int) = (((unitA x.1 x.2.1 0).a[0].toNat / 2 ^ 32 % 2 ^ 16 : Nat) : Int) ∧
      (3 : Int) = max (max 1 2) 3 := by decide

theorem witness_CcresetArmsTheCycle :
    (1 : Byte).toNat < unit.params.numZones ∧ 0xFFFFFFFF = (unitA 0xFFFFFFFF 0 0).a[0].toNat % 2 ^ 32 ∧
      (0xFFFFFFFF : Nat) ≠ 0 := by decide

theorem witness_CcrecalcKeepsThePhase :
    (0 : Byte).toNat < unit.params.numZones ∧ 4 = (unitA 4 0 0).a[0].toNat % 2 ^ 32 ∧ (4 : Nat) ≠ 0 ∧
      ((unitZ ZoneParams.zero { ZoneState.zero with outH := 0xFFFFFFFF }).zone 0).st.outH.toInt =
        (-1) * 2 ^ 27 + (2 ^ 27 - 1) ∧ (0 : Int) ≤ 2 ^ 27 - 1 ∧ (2 ^ 27 - 1 : Int) < 2 ^ 27 :=
  by decide

theorem witness_BrresetSplitsThePeriod :
    (0 : Byte).toNat < unit.params.numZones ∧ 2 = (unitA 2 0 0).a[0].toNat % 2 ^ 32 ∧
      2 = 2 + (unit.zone 0).par.brTopEn.toNat + (unit.zone 0).par.brBotEn.toNat ∧ 1 = 2 / 2 ∧ (1 : Nat) ≠ 0 :=
  by decide

theorem witness_ZeroPeriodFaults :
    (1 : Byte).toNat < unit.params.numZones ∧ unit.status.fault = false ∧
      (unitA 0x100000000 0 0).a[0].toNat % 2 ^ 32 = 0 ∧
      (unitA 1 0 0).a[0].toNat % 2 ^ 32 <
        2 + ((unitA 1 0 0).zone 1).par.brTopEn.toNat + ((unitA 1 0 0).zone 1).par.brBotEn.toNat :=
  by decide

theorem witness_BrpassEntersPassthrough : (1 : Byte).toNat < unit.params.numZones := by decide

theorem witness_TickResolvesTheZone :
    (1 : Byte).toNat < unit.params.numZones ∧
      ∃ u, exec .hsv2rgb { unit with a := #v[0, 0, 0, 0] } = .next u := ⟨by decide, _, rfl⟩

/-- A unit whose zone 0 runs the colour cycle, with a drift counter. -/
def cycling (en : Bool) (idx drift : Word) : State :=
  unitZ { ZoneParams.zero with ccPeriod := 4, ccSlope := 0x02000000, ccEn := en }
    { ZoneState.zero with ccIdx := idx, ccDrift := drift }

/-- A unit whose zone 0 breathes, in the given state, with a drift counter. -/
def breathing (top bot : Word) (en : Bool) (bs : BrState) (drift : Word) : State :=
  unitZ { ZoneParams.zero with brRamp := 2, brTop := top, brBot := bot, brSlope := 0x04000000, brEn := en }
    { ZoneState.zero with brState := bs, brDrift := drift }

/-- Whether the hypotheses that the statements about a TICK of zone 0 share hold. -/
def ticks (s : State) : Prop :=
  s.Inv ∧ s.status.fault = false ∧ (0 : Byte).toNat < s.params.numZones ∧ ∃ t, exec (.tick 0) s = .next t

theorem ticks_unitZ (zp : ZoneParams) (st : ZoneState) : ticks (unitZ zp st) :=
  ⟨unit_inv, rfl, (by decide : (0 : Byte).toNat < unit.params.numZones), exec_next _ _⟩

/-- k = 0, 1 and 2, with CC_EN = 0 and 1, the last index of a period and the first one
beyond it. -/
theorem witness_TickAdvancesTheHue :
    (∀ x ∈ [(true, (3 : Word), (0 : Word)), (true, 3, 1), (true, 3, 0xFFFFFFFF), (true, 4, 0), (true, 4, 1),
        (false, 3, 0), (false, 3, 0x80000000), (false, 3, 0x7FFFFFFF)], ticks (cycling x.1 x.2.1 x.2.2)) ∧
      (3 : Word).toNat < ((cycling true 3 0).zone 0).par.ccPeriod.toNat ∧
      ((cycling true 4 0).zone 0).par.ccPeriod.toNat ≤ (4 : Word).toNat ∧
      ((cycling true 3 0).zone 0).par.ccEn = true ∧ ((cycling false 3 0).zone 0).par.ccEn = false :=
  ⟨fun _ _ => ticks_unitZ _ _, by decide, by decide, rfl, rfl⟩

/-- E14: a period of 0 with CC_EN = 1. -/
theorem witness_TickAdvancesTheHue_period_zero :
    ticks (unitZ { ZoneParams.zero with ccSlope := 0x02000000, ccEn := true } ZoneState.zero) ∧
      ((unitZ { ZoneParams.zero with ccSlope := 0x02000000, ccEn := true } ZoneState.zero).zone
        0).par.ccPeriod.toNat ≤ ZoneState.zero.ccIdx.toNat := ⟨ticks_unitZ _ _, by decide⟩

theorem witness_ColourCycleHasItsPeriod :
    (unitA 4 0 0).Inv ∧ (unitA 4 0 0).status.fault = false ∧ (0 : Byte).toNat < unit.params.numZones ∧
      4 = (unitA 4 0 0).a[0].toNat % 2 ^ 32 ∧ (4 : Nat) ≠ 0 ∧ (5 : Nat) ≠ 0 ∧
      ((unitA 4 0 0).zone 0).st.ccDrift = 0 :=
  ⟨unit_inv, by decide, by decide, by decide, by decide, by decide, by decide⟩

/-- Every row of the table: the six states, holds present and absent, BR_EN = 0 and 1. -/
theorem witness_TickFollowsTheBreathingTable :
    ∀ (top bot : Word) (en : Bool) (bs : BrState), ticks (breathing top bot en bs 0) ∧
      ((breathing top bot en bs 0).zone 0).st.brDrift = 0 := fun _ _ _ _ => ⟨ticks_unitZ _ _, rfl⟩

theorem witness_DriftRunsTheBreathingStep :
    ticks (breathing 1 1 true .rampUp 0xFFFFFFFF) ∧ ticks (breathing 1 1 true .rampUp 1) ∧
      ((breathing 1 1 true .rampUp 0xFFFFFFFF).zone 0).st.brDrift.toInt < 0 ∧
      0 < ((breathing 1 1 true .rampUp 1).zone 0).st.brDrift.toInt :=
  ⟨ticks_unitZ _ _, ticks_unitZ _ _, by decide, by decide⟩

theorem witness_BreathLevelFollowsTheCurve :
    (0 : Int) ≤ (0x08000000 : Word).toInt ∧ (0x08000000 : Word).toInt ≤ 2 ^ 27 := by decide

theorem witness_NoHoldsWithoutHoldPeriods :
    ticks (breathing 0 0 true .startup 1) ∧
      ((breathing 0 0 true .startup 1).zone 0).par.brTop = 0 ∧
      ((breathing 0 0 true .startup 1).zone 0).par.brBot = 0 ∧
      ((breathing 0 0 true .startup 1).zone 0).st.brState.isRampOnly = true :=
  ⟨ticks_unitZ _ _, rfl, rfl, rfl⟩

theorem witness_BreathingRepeatsAfterItsPeriod :
    ticks (breathing 3 0 true .rampUp 0) ∧
      ((breathing 3 0 true .rampUp 0).zone 0).par.brEn = true ∧
      ((breathing 3 0 true .rampUp 0).zone 0).par.brRamp ≠ 0 ∧
      ((breathing 3 0 true .rampUp 0).zone 0).st.brDrift = 0 ∧
      breathPhase ((breathing 3 0 true .rampUp 0).zone 0).st = (.rampUp, 0, 0) :=
  ⟨ticks_unitZ _ _, rfl, by decide, rfl, rfl⟩

theorem witness_DisabledHoldStaysStuck :
    ∀ bs ∈ [BrState.topSeg, .bottomSeg], ticks (breathing 2 2 false bs 0) ∧
      ((breathing 2 2 false bs 0).zone 0).par.brEn = false ∧
      (((breathing 2 2 false bs 0).zone 0).st.brState = .topSeg ∨
        ((breathing 2 2 false bs 0).zone 0).st.brState = .bottomSeg) := by
  intro bs h
  refine ⟨ticks_unitZ _ _, rfl, ?_⟩
  revert bs; decide

theorem witness_GetWritesTheRecordImage :
    (1 : Byte).toNat < unit.params.numZones ∧
      unit.zone 1 = { par := ZoneParams.zero, st := ZoneState.zero } := by decide

theorem witness_SetparStoresTheParamsImage :
    (1 : Byte).toNat < (unit.setRb 2 0xFFFFFFFF).params.numZones := by decide

/-- The codes 0 and 5, and the first code that names no state. -/
theorem witness_SetstStoresTheStateImage :
    (1 : Byte).toNat < unit.params.numZones ∧ brStateCode .startup = (unit.setRb 3 0).rb[3] ∧
      brStateCode .passthrough = (unit.setRb 3 5).rb[3] ∧ 5 < (unit.setRb 3 6).rb[3].toNat ∧
      (unit.setRb 3 6).status.fault = false := by decide

theorem witness_GetThenSetChangesNoRecord :
    unit.Inv ∧ unit.status.fault = false ∧ (1 : Byte).toNat < unit.params.numZones :=
  ⟨unit_inv, by decide, by decide⟩

theorem witness_SetThenGetReturnsTheImage :
    (unit.setRb 3 5).Inv ∧ (unit.setRb 3 5).status.fault = false ∧
      (1 : Byte).toNat < (unit.setRb 3 5).params.numZones ∧ (unit.setRb 3 5).rb[3].toNat ≤ 5 :=
  ⟨unit_inv, by decide, by decide, by decide⟩

end Sys2Proof.Tests
end

section
/-! SUPPORT. What a well-formed parameter set says (R7 to R9, R12): the gamma table is sorted, the spec's own
defaults are well formed, and the unit built from such a set satisfies the invariant. -/

namespace Sys2Proof.Machine

theorem Params.wellFormed_iff (p : Params) :
    p.wellFormed = true ↔
      (1 ≤ p.numZones ∧ p.numZones ≤ 256) ∧ (1 ≤ p.gammaOrder ∧ p.gammaOrder ≤ 5) ∧
        nondecreasing p.gamma8Table.toList = true := by
  simp [Params.wellFormed, and_assoc]

/-- The check on adjacent entries is sortedness of the list of numbers. -/
theorem nondecreasing_iff_sortedLE (l : List Byte) :
    nondecreasing l = true ↔ (l.map BitVec.toNat).SortedLE := by
  rw [List.sortedLE_iff_isChain]
  induction l using nondecreasing.induct with
  | case1 => simp [nondecreasing]
  | case2 a => simp [nondecreasing]
  | case3 a b rest ih => simpa [nondecreasing] using fun _ => ih

theorem nondecreasing_getElem_le {l : List Byte} (h : nondecreasing l = true) {i j : Nat} (hij : i ≤ j)
    (hj : j < l.length) : l[i].toNat ≤ l[j].toNat := by
  have hsorted := (nondecreasing_iff_sortedLE l).mp h
  have hle := hsorted.getElem_le_getElem_of_le (hi := by rw [List.length_map]; exact hij.trans_lt hj)
    (hj := by rwa [List.length_map]) hij
  rwa [List.getElem_map, List.getElem_map] at hle

/-- The defaults of R6 to R9 with the table of R131; the check reads neither of the OPEN parameters. -/
theorem defaultParams_wellFormed : Config.params.wellFormed = true := by
  rw [Params.wellFormed_iff]
  exact ⟨by decide, by decide, by decide +kernel⟩

theorem clear_consistent : Status.clear.consistent = true := rfl

theorem resetWith_inv {p : Params} (hp : p.wellFormed = true) : (State.resetWith p).Inv :=
  ⟨hp, List.length_replicate, clear_consistent⟩

theorem construct_of_wellFormed {p : Params} (hp : p.wellFormed = true) :
    State.construct p = .next (State.resetWith p) :=
  if_pos hp

theorem construct_of_not_wellFormed {p : Params} (hp : p.wellFormed = false) :
    State.construct p = .refused .badParameters :=
  if_neg (by simp [hp])

/-- Settles O16: construction is the check of R12 and then the state of R44. -/
theorem constructionRefusesBadParameters : Obligations.ConstructionRefusesBadParameters :=
  ⟨fun p hp => ⟨State.resetWith p, construct_of_wellFormed hp, resetWith_inv hp, rfl⟩,
    fun _ => construct_of_not_wellFormed,
    resetWith_inv defaultParams_wellFormed⟩

end Sys2Proof.Machine
end

section
/-! SUPPORT. GAM8 reads a sorted table (R8, R130), so it is monotone in its 8-bit sample. -/

namespace Sys2Proof.Machine

theorem gamma8_mono {p : Params} (hp : p.wellFormed = true) {x x' : Byte} (h : x.toNat ≤ x'.toNat) :
    (gamma8 p x).toNat ≤ (gamma8 p x').toNat := by
  obtain ⟨_, _, htable⟩ := (Params.wellFormed_iff p).mp hp
  have hx' : x'.toNat < p.gamma8Table.toList.length := by
    rw [Vector.length_toList]; exact x'.isLt
  have hle := nondecreasing_getElem_le htable h hx'
  rwa [Vector.getElem_toList, Vector.getElem_toList] at hle

/-- The one result of GAM8 (R130): zero extension keeps the table entry's value. -/
theorem exec_gam8_y0 {s t : State} (h : exec .gam8 s = .next t) :
    t.y[0].toNat = (gamma8 s.params (sample8 s.a[0])).toNat := by
  obtain rfl : s.setY 0 ((gamma8 s.params (sample8 s.a[0])).setWidth 64) = t := Host.Outcome.next.inj h
  rw [State.setY_y]
  exact (congrArg BitVec.toNat (Vector.getElem_set_self _)).trans (BitVec.toNat_setWidth_of_le (by decide))

/-- Settles O31: GAM8 is its table lookup, and the lookup is monotone. -/
theorem gam8IsMonotone : Obligations.Gam8IsMonotone := by
  intro s s' t t' hp hparams hle h h'
  rw [exec_gam8_y0 h, exec_gam8_y0 h', hparams]
  refine gamma8_mono hp ?_
  rwa [sample8_toNat, sample8_toNat]

end Sys2Proof.Machine
end

section
/-! SUPPORT. STATUS stays consistent (R25, R281 to R283): every fault entry of the unit records a cause with
an OPC that can raise it, and a zone only beside a format-Z OPC. -/

namespace Sys2Proof.Machine

theorem zoneOf_of_not_formatZ {i : Instr} (h : isFormatZ (opcodeOf i) = false) : zoneOf i = 0 := by
  cases i with
  | ccreset | ccrecalc | brreset | brpass | tick | getpar | setpar | getst | setst => cases h
  | init | sat | shr | mul | div | gam8 | gam16 | gamrgb | rgb2hsv | hsv2rgb | calboost => rfl

/-- The causes a command can raise are ones its OPC is admitted for (R282). -/
theorem causeAdmits_of_canRaise {i : Instr} {c : Cause} (h : canRaise i c) :
    c ≠ .none ∧ causeAdmits c (opcodeOf i) = true := by
  cases i with
  | div | ccreset | ccrecalc | brreset | setst => rcases h with rfl | rfl <;> exact ⟨nofun, rfl⟩
  | brpass | tick | getpar | setpar | getst => cases h; exact ⟨nofun, rfl⟩
  | init | sat | shr | mul | gam8 | gam16 | gamrgb | rgb2hsv | hsv2rgb | calboost => exact h.elim

/-- Fault entry keeps STATUS consistent when what it would record is (R283, R289). -/
theorem raiseFault_consistent {c : Cause} {opc zone : Byte} {s : State} (hc : c ≠ .none)
    (hopc : causeAdmits c opc = true) (hzone : isFormatZ opc = false → zone = 0)
    (hs : s.status.consistent = true) : (raiseFault c opc zone s).status.consistent = true := by
  rcases raiseFault_cases c opc zone s with ⟨_, e⟩ | ⟨_, e⟩ <;> rw [e]
  · exact hs
  · cases hf : isFormatZ opc with
    | true => simp [Status.consistent, hc, hopc, hf]
    | false => simp [Status.consistent, hc, hopc, hzone hf]

theorem raiseIllegalWord_consistent (w : Word) {s : State} (hs : s.status.consistent = true) :
    (raiseIllegalWord w s).status.consistent = true :=
  raiseFault_consistent nofun rfl (fun hf => by rw [hf]; rfl) hs

theorem raiseBusError_consistent {s : State} (hs : s.status.consistent = true) :
    (raiseBusError s).status.consistent = true :=
  raiseFault_consistent nofun rfl (fun _ => rfl) hs

theorem exec_consistent {i : Instr} {s t : State} (h : exec i s = .next t)
    (hs : s.status.consistent = true) : t.status.consistent = true := by
  rcases exec_cases h with ⟨c, rfl, hc | ⟨rfl, _⟩⟩ | he
  · obtain ⟨hne, hopc⟩ := causeAdmits_of_canRaise hc
    exact raiseFault_consistent hne hopc zoneOf_of_not_formatZ hs
  · exact raiseFault_consistent nofun rfl zoneOf_of_not_formatZ hs
  · rwa [he.status]

theorem performCommand_consistent {w : Word} {s t : State} (h : performCommand w s = .next t)
    (hs : s.status.consistent = true) : t.status.consistent = true := by
  rcases performCommand_cases w s with ⟨_, e⟩ | ⟨_, i, _, e⟩ | ⟨_, _, e⟩ <;> rw [e] at h
  · cases h; exact hs
  · exact exec_consistent h hs
  · cases h; exact raiseIllegalWord_consistent w hs

theorem writeReg_consistent {s t : State} {d : Word} {r : WindowReg} (h : writeReg s d r = .next t)
    (hs : s.status.consistent = true) : t.status.consistent = true := by
  rcases writeReg_cases s d r with ⟨_, e⟩ | ⟨_, _, _, e⟩ | ⟨_, _, e⟩ | e <;> rw [e] at h
  · exact performCommand_consistent h hs
  all_goals cases h; exact hs

end Sys2Proof.Machine
end

section
/-! SUPPORT. The inversion of a host event and of a step, and the invariant along them (R12, R28, R45). -/

namespace Sys2Proof.Machine

/-- Everything a host event can answer: a load, a store, or the platform's reset. -/
theorem hostEvent_cases {e : HostEvent} {s t : State} (h : hostEvent e s = .next t) :
    (∃ size off, e = .read size off ∧ off < windowBytes ∧ t = hostRead size off s) ∨
    (∃ size off d, e = .write size off d ∧ off < windowBytes ∧ hostWrite size off d s = .next t) ∨
    (e = .reset ∧ t = platformReset s) := by
  cases e with
  | read size off =>
    simp only [hostEvent] at h
    split at h
    · cases h; exact .inl ⟨size, off, rfl, ‹_›, rfl⟩
    · cases h
  | write size off d =>
    simp only [hostEvent] at h
    split at h
    · exact .inr (.inl ⟨size, off, d, rfl, ‹_›, h⟩)
    · cases h
  | reset => cases h; exact .inr (.inr ⟨rfl, rfl⟩)

/-- Everything a step can answer: the unit waits, or performs its oldest pending event (R59, R296). -/
theorem step_cases {s t : State} (h : step s = .next t) :
    (s.bus = [] ∧ t = s) ∨
    ∃ e rest, s.bus = e :: rest ∧ hostEvent e { s with bus := rest } = .next t := by
  cases hbus : s.bus with
  | nil =>
    simp only [step, stepBus, hbus] at h
    cases h; exact .inl ⟨rfl, rfl⟩
  | cons e rest => exact .inr ⟨e, rest, rfl, (stepBus_cons hbus).symm.trans h⟩

/-- What every event but the reset keeps of what the invariant speaks of. -/
structure KeepsInv (s t : State) : Prop where
  params : t.params = s.params
  zones : t.zones.length = s.zones.length
  status : s.status.consistent = true → t.status.consistent = true

theorem KeepsInv.inv {s t : State} (h : KeepsInv s t) (hs : s.Inv) : t.Inv := by
  obtain ⟨hp, hz, hst⟩ := hs
  exact ⟨by rwa [h.params], by rw [h.zones, h.params, hz], h.status hst⟩

theorem raiseBusError_keepsInv (s : State) : KeepsInv s (raiseBusError s) where
  params := by rw [raiseBusError_frame]
  zones := by rw [raiseBusError_frame]
  status := raiseBusError_consistent

theorem writeReg_keepsInv {s t : State} {d : Word} {r : WindowReg} (h : writeReg s d r = .next t) :
    KeepsInv s t := by
  obtain ⟨hparams, _, hzones⟩ := writeReg_keeps h
  exact ⟨hparams, hzones, writeReg_consistent h⟩

theorem hostRead_keepsInv (size : AccessSize) (off : Nat) (s : State) :
    KeepsInv s (hostRead size off s) := by
  unfold hostRead
  split
  · exact ⟨rfl, rfl, id⟩
  · obtain ⟨hparams, hzones, hstatus⟩ := raiseBusError_keepsInv s
    exact ⟨hparams, hzones, hstatus⟩

theorem hostWrite_keepsInv {size : AccessSize} {off : Nat} {d : Word} {s t : State}
    (h : hostWrite size off d s = .next t) : KeepsInv s t := by
  have hk : KeepsInv { s with reply := none } t := by
    rcases hostWrite_cases size off d s with ⟨_, e⟩ | ⟨_, e⟩ <;> rw [e] at h
    · exact writeReg_keepsInv h
    · cases h; exact raiseBusError_keepsInv _
  obtain ⟨hparams, hzones, hstatus⟩ := hk
  exact ⟨hparams, hzones, hstatus⟩

theorem platformReset_inv {s : State} (hp : s.params.wellFormed = true) : (platformReset s).Inv :=
  resetWith_inv hp

theorem hostEvent_keeps_params_and_inv {e : HostEvent} {s t : State} (h : hostEvent e s = .next t) :
    t.params = s.params ∧ (s.Inv → t.Inv) := by
  rcases hostEvent_cases h with ⟨size, off, _, _, rfl⟩ | ⟨_, _, _, _, _, hw⟩ | ⟨_, rfl⟩
  · have hk := hostRead_keepsInv size off s
    exact ⟨hk.params, hk.inv⟩
  · have hk := hostWrite_keepsInv hw
    exact ⟨hk.params, hk.inv⟩
  · exact ⟨platformReset_params s, fun ⟨hp, _, _⟩ => platformReset_inv hp⟩

/-- Settles O17, by what the step performs; the invariant does not read the pending events. -/
theorem stepKeepsTheInvariant : Obligations.StepKeepsTheInvariant := by
  intro s t h
  rcases step_cases h with ⟨_, rfl⟩ | ⟨e, rest, _, he⟩
  · exact ⟨rfl, id⟩
  · obtain ⟨hparams, hinv⟩ := hostEvent_keeps_params_and_inv he
    exact ⟨hparams, hinv⟩

end Sys2Proof.Machine
end

section
/-! SUPPORT. A zone command depends on the zone store only through its own zone (R28, R294): two units that agree
outside the store and at one zone still agree there after a command for that zone. -/

namespace Sys2Proof.Machine

/-- `s` and `s'` differ at most in the records of zones other than `z`. -/
structure AgreeAt (z : Byte) (s s' : State) : Prop where
  frame : s' = { s with zones := s'.zones }
  length : s.zones.length = s'.zones.length
  zone : s.zone z = s'.zone z

namespace AgreeAt

variable {z : Byte} {s s' : State}

theorem a (h : AgreeAt z s s') : s'.a = s.a := by rw [h.frame]

theorem rb (h : AgreeAt z s s') : s'.rb = s.rb := by rw [h.frame]

theorem status (h : AgreeAt z s s') : s'.status = s.status := by rw [h.frame]

theorem params (h : AgreeAt z s s') : s'.params = s.params := by rw [h.frame]

theorem setY (h : AgreeAt z s s') (k : Fin 4) (v : DWord) : AgreeAt z (s.setY k v) (s'.setY k v) where
  frame := by rw [h.frame]; rfl
  length := h.length
  zone := h.zone

theorem setRecordBuffer (h : AgreeAt z s s') (v : Vector Word 16) :
    AgreeAt z (s.setRecordBuffer v) (s'.setRecordBuffer v) where
  frame := by rw [h.frame]; rfl
  length := h.length
  zone := h.zone

/-- Where the store does not reach zone `z`, neither unit writes it. -/
theorem setZone (h : AgreeAt z s s') (zn : Zone) : AgreeAt z (s.setZone z zn) (s'.setZone z zn) where
  frame := by rw [h.frame]; rfl
  length := by simp [h.length]
  zone := by
    by_cases hz : z.toNat < s.zones.length
    · rw [zone_setZone_same hz, zone_setZone_same (h.length ▸ hz)]
    · have hz' : ¬ z.toNat < s'.zones.length := h.length ▸ hz
      have hs : s.setZone z zn = s := by rw [State.setZone, List.set_eq_of_length_le (by omega)]
      have hs' : s'.setZone z zn = s' := by rw [State.setZone, List.set_eq_of_length_le (by omega)]
      rw [hs, hs', h.zone]

theorem setZoneSt (h : AgreeAt z s s') (st : ZoneState) :
    AgreeAt z (s.setZoneSt z st) (s'.setZoneSt z st) := by
  rw [State.setZoneSt, State.setZoneSt, ← h.zone]
  exact h.setZone _

theorem setZonePar (h : AgreeAt z s s') (p : ZoneParams) :
    AgreeAt z (s.setZonePar z p) (s'.setZonePar z p) := by
  rw [State.setZonePar, State.setZonePar, ← h.zone]
  exact h.setZone _

theorem raised (h : AgreeAt z s s') (c : Cause) (i : Instr) :
    AgreeAt z (raiseBy c i s) (raiseBy c i s') := by
  unfold raiseBy raiseFault
  rw [h.status]
  split
  · exact h
  · exact ⟨by rw [h.frame], h.length, h.zone⟩

theorem raised_or_setZone (h : AgreeAt z s s') (p : Prop) [Decidable p] (c : Cause) (i : Instr) (zn : Zone) :
    AgreeAt z (if p then raiseBy c i s else s.setZone z zn)
      (if p then raiseBy c i s' else s'.setZone z zn) := by
  split
  · exact h.raised c i
  · exact h.setZone zn

/-- The zone check reads NUM_ZONES alone, so both units pass it or both fault. -/
theorem checked {r r' t t' : State} {i : Instr} (h : AgreeAt z s s') (hr : AgreeAt z r r')
    (ht : checkZone i z s r = .next t) (ht' : checkZone i z s' r' = .next t') : AgreeAt z t t' := by
  rcases checkZone_cases i z s r with ⟨hz, e⟩ | ⟨hz, e⟩ <;> rw [e] at ht
  · rw [checkZone_valid (h.params ▸ hz)] at ht'
    cases ht; cases ht'; exact hr
  · rw [checkZone_invalid (h.params ▸ hz)] at ht'
    cases ht; cases ht'; exact h.raised _ _

/-- Each zone command reads A, RB and the parameters, which agree, and its own zone's records, which agree. -/
theorem of_exec {i : Instr} {t t' : State} (hi : isFormatZ (opcodeOf i) = true)
    (h : AgreeAt (zoneOf i) s s') (ht : exec i s = .next t) (ht' : exec i s' = .next t') :
    AgreeAt (zoneOf i) t t' := by
  cases i with
  | ccreset z =>
    refine h.checked ?_ ht ht'
    rw [h.a, ← AgreeAt.zone (z := z) h]
    exact h.raised_or_setZone _ _ _ _
  | ccrecalc z =>
    refine h.checked ?_ ht ht'
    rw [h.a, ← AgreeAt.zone (z := z) h]
    exact h.raised_or_setZone _ _ _ _
  | brreset z =>
    refine h.checked ?_ ht ht'
    rw [h.a, ← AgreeAt.zone (z := z) h]
    exact h.raised_or_setZone _ _ _ _
  | brpass z =>
    refine h.checked ?_ ht ht'
    rw [← AgreeAt.zone (z := z) h]
    exact h.setZoneSt _
  | tick z =>
    refine h.checked ?_ ht ht'
    rw [h.params, ← AgreeAt.zone (z := z) h]
    exact (h.setZoneSt _).setY _ _
  | getpar z =>
    refine h.checked ?_ ht ht'
    rw [← AgreeAt.zone (z := z) h]
    exact h.setRecordBuffer _
  | setpar z =>
    refine h.checked ?_ ht ht'
    rw [h.rb]
    exact h.setZonePar _
  | getst z =>
    refine h.checked ?_ ht ht'
    rw [← AgreeAt.zone (z := z) h]
    exact h.setRecordBuffer _
  | setst z =>
    refine h.checked ?_ ht ht'
    rw [h.rb]
    split
    · exact h.raised _ _
    · exact h.setZoneSt _
  | init | sat | shr | mul | div | gam8 | gam16 | gamrgb | rgb2hsv | hsv2rgb | calboost => cases hi

end AgreeAt

/-- A zone command leaves every other zone's records (R28, R294). -/
theorem exec_zone_ne {i : Instr} {s t : State} (hi : isFormatZ (opcodeOf i) = true)
    (h : exec i s = .next t) {z : Byte} (hz : z ≠ zoneOf i) : t.zone z = s.zone z := by
  rcases exec_zone_cases h z with e | ⟨_, e⟩ | rfl
  · exact e
  · exact absurd e hz
  · cases hi

/-- Settles O21, from the agreement of the two units at the command's own zone. -/
theorem zonesDoNotInterfere : Obligations.ZonesDoNotInterfere := by
  intro i s s' t t' hi hframe hlength hzone ht ht'
  have h : AgreeAt (zoneOf i) t t' := AgreeAt.of_exec hi ⟨hframe, hlength, hzone⟩ ht ht'
  exact ⟨h.frame, h.zone, fun z hz => ⟨exec_zone_ne hi ht hz, exec_zone_ne hi ht' hz⟩⟩

end Sys2Proof.Machine
end

section
/-! SUPPORT. The registers the host reads and writes: STATUS and CFGID as numbers (R25, R26), what a command
leaves of A, RB, the pending accesses and the reply (R23, R85), and the steps that take a legal command word or
the platform's reset (R24, R44). -/

namespace Sys2Proof.Machine

theorem statusWord_toNat (st : Status) :
    (statusWord st).toNat = st.fault.toNat + 2 ^ 4 * (causeCode st.cause).toNat +
      2 ^ 8 * st.faultOpc.toNat + 2 ^ 16 * st.faultZone.toNat := by
  simp only [statusWord, append_toNat, BitVec.toNat_ofBool, BitVec.toNat_ofNat, Nat.zero_mod]
  ring

theorem cfgidWord_toNat (p : Params) :
    (cfgidWord p).toNat = p.numZones % 2 ^ 9 + 2 ^ 9 * (p.gammaOrder % 2 ^ 3) := by
  simp only [cfgidWord, append_toNat, BitVec.toNat_ofNat, Nat.zero_mod]
  ring

/-- Settles O12: the fields of each word do not overlap, and a well-formed parameter set fits CFGID's. -/
theorem statusAndCfgidReadAsTheirFields : Obligations.StatusAndCfgidReadAsTheirFields := by
  refine ⟨fun st => ?_, fun p hp => ?_⟩
  · rw [statusWord_toNat]
    cases st.cause <;> rfl
  · obtain ⟨⟨_, hzones⟩, ⟨_, horder⟩, _⟩ := (Params.wellFormed_iff p).mp hp
    rw [cfgidWord_toNat, Nat.mod_eq_of_lt (by omega : p.numZones < 2 ^ 9),
      Nat.mod_eq_of_lt (by omega : p.gammaOrder < 2 ^ 3)]

/-- Only the two GET commands write the record buffer (R23, R263, R265). -/
theorem exec_rb_cases {i : Instr} {s t : State} (h : exec i s = .next t) :
    t.rb = s.rb ∨ ∃ z, i = .getpar z ∨ i = .getst z := by
  rcases exec_cases h with ⟨c, rfl, _⟩ | he
  · rw [raiseBy, raiseFault_frame]; exact .inl rfl
  · exact he.rb

/-- Settles O20, from what a command leaves unchanged and the writers of the record buffer. -/
theorem commandsKeepTheHostRegisters : Obligations.CommandsKeepTheHostRegisters := by
  intro i s t h
  obtain ⟨ha, _, hbus, hreply⟩ := exec_frame h
  exact ⟨ha, hbus, hreply, exec_rb_cases h⟩

/-- A 32-bit store to CMD performs the command word (R24, R55). -/
theorem hostEvent_write_cmd (w : Word) (s : State) :
    hostEvent (.write .word 0x00 w) s = performCommand w { s with reply := none } := rfl

/-- Settles O5: the oldest access is the store to CMD, and its word is legal. -/
theorem stepPerformsTheDecodedCommand : Obligations.StepPerformsTheDecodedCommand := by
  intro s w rest i hbus hfault hdecode
  calc step s = hostEvent (.write .word 0x00 w) { s with bus := rest } := stepBus_cons hbus
    _ = performCommand w { s with bus := rest, reply := none } := hostEvent_write_cmd w _
    _ = exec i { s with bus := rest, reply := none } :=
      performCommand_legal (s := { s with bus := rest, reply := none }) hfault hdecode

theorem statusWord_clear : statusWord Status.clear = 0 := by decide

/-- Settles O15: the step is the platform's reset, which keeps the parameters and the later accesses. -/
theorem resetZeroesTheUnit : Obligations.ResetZeroesTheUnit := by
  intro s rest hbus
  exact ⟨platformReset { s with bus := rest }, stepBus_cons hbus, fun i => Vector.getElem_replicate i.isLt,
    fun i => Vector.getElem_replicate i.isLt, fun i => Vector.getElem_replicate i.isLt, statusWord_clear,
    rfl, rfl, rfl, rfl⟩

/-- Settles O55: INIT maps every zone to the zero zone. -/
theorem initZeroesZonesAndResults : Obligations.InitZeroesZonesAndResults := by
  intro s
  have hzones : s.clearZones.zones = List.replicate s.zones.length Zone.zero := List.map_const' ..
  rw [← hzones]
  rfl

end Sys2Proof.Machine
end

section
/-! SUPPORT. TICK as a whole (R34, R217): which fields of the state record it keeps, and what it makes of the
saturation, the drift counters and the output colour. -/

namespace Sys2Proof.Machine

/-- A drift counter moves one step toward 0 (R216). -/
theorem driftAfter_toInt (d : Word) : (driftAfter d).toInt = d.toInt - d.toInt.sign := by
  by_cases h0 : d.toInt = 0
  · rw [driftAfter, if_pos h0, h0]; rfl
  · rw [driftAfter_toInt_of_ne h0]
    split
    · rw [Int.sign_eq_one_of_pos ‹_›]
    · rw [Int.sign_eq_neg_one_of_neg (by omega), sub_neg_eq_add]

/-- No part of a TICK writes the input HSV (R34). -/
theorem tickState_input (p : Params) (zn : Zone) :
    (tickState p zn).inH = zn.st.inH ∧ (tickState p zn).inS = zn.st.inS ∧
      (tickState p zn).inV = zn.st.inV := by
  simp only [tickState, tickResolve]
  rw [tickBreath_same, tickSaturation, tickColor_same]
  exact ⟨rfl, rfl, rfl⟩

/-- The saturation is forced to ONE while the colour cycle is enabled (R217). -/
theorem tickState_outS (p : Params) (zn : Zone) :
    (tickState p zn).outS = if zn.par.ccEn then fieldWord one else zn.st.inS := by
  simp only [tickState, tickResolve]
  rw [tickBreath_same, tickSaturation, tickColor_same]

theorem tickState_ccDrift (p : Params) (zn : Zone) :
    (tickState p zn).ccDrift = driftAfter zn.st.ccDrift := by
  simp only [tickState, tickResolve]
  rw [tickBreath_same, tickSaturation]
  exact tickColor_ccDrift _ _

theorem tickState_brDrift (p : Params) (zn : Zone) :
    (tickState p zn).brDrift = driftAfter zn.st.brDrift := by
  simp only [tickState, tickResolve]
  rw [tickBreath_brDrift, tickSaturation, tickColor_same]

theorem tickResolve_outRgb (st : ZoneState) : (tickResolve st).outRgb = outputRgb (tickResolve st) := rfl

/-- The output colour is the conversion of the output HSV (R40, R217). -/
theorem tickState_outRgb (p : Params) (zn : Zone) :
    (tickState p zn).outRgb = outputRgb (tickState p zn) :=
  tickResolve_outRgb _

/-- TICK of a zone in the store completes (R217). -/
theorem exec_tick {s : State} {z : Byte} (h : z.toNat < s.params.numZones) :
    exec (.tick z) s = .next ((s.setZoneSt z (tickState s.params (s.zone z))).setY 0
      (pack (tickState s.params (s.zone z)).outRgb)) :=
  checkZone_valid h _ _

/-- A field read from a register that holds it sign-extended (R157). -/
theorem q27Operand_signExtend (x : Word) : q27Operand (x.signExtend 64) = x.toInt := by
  have hx : (x.signExtend 64).setWidth 32 = x := by
    ext i hi
    have hi64 : i < 64 := by omega
    simp [BitVec.getElem_setWidth, BitVec.getLsbD_eq_getElem hi64, BitVec.getElem_signExtend, hi]
  rw [q27Operand, hx]

/-- HSV2RGB of operands that hold a record's output HSV gives its output colour (R40, R157). -/
theorem exec_hsv2rgb_y0 {s u : State} {st : ZoneState}
    (ha : s.a = #v[st.outH.signExtend 64, st.outS.signExtend 64, st.outV.signExtend 64, 0])
    (hu : exec .hsv2rgb s = .next u) : u.y[0] = pack (outputRgb st) := by
  obtain rfl := Host.Outcome.next.inj hu
  rw [State.setY_y, ha]
  refine (Vector.getElem_set_self _).trans ?_
  simp only [outputRgb, ← q27Operand_signExtend]
  rfl

/-- Settles O46, field by field of what TICK makes of the record. -/
theorem tickResolvesTheZone : Obligations.TickResolvesTheZone := by
  intro s z hz
  obtain ⟨hinH, hinS, hinV⟩ := tickState_input s.params (s.zone z)
  refine ⟨tickState s.params (s.zone z), exec_tick hz, hinH, hinS, hinV, ?_, ?_, ?_, fun u hu => ?_⟩
  · exact tickState_outS _ _
  · rw [tickState_ccDrift, driftAfter_toInt]
  · rw [tickState_brDrift, driftAfter_toInt]
  · rw [tickState_outRgb]
    exact exec_hsv2rgb_y0 rfl hu

end Sys2Proof.Machine
end

section
/-! SUPPORT. What each writer of a zone's records makes of them (R29, R34): the inversion of a command at one
zone, and the fields each writer leaves. -/

namespace Sys2Proof.Machine

/-- `ZoneWrite z zn i zn'`: the command `i`, addressed to zone `z` and completing, replaces its records `zn` by
`zn'`. -/
inductive ZoneWrite (z : Byte) (zn : Zone) : Instr → Zone → Prop
  | ccreset (p : Word) :
      ZoneWrite z zn (.ccreset z) { par := armColorCycle p zn.par, st := { zn.st with ccIdx := 0 } }
  | ccrecalc (p idx : Word) :
      ZoneWrite z zn (.ccrecalc z) { par := armColorCycle p zn.par, st := { zn.st with ccIdx := idx } }
  | brreset (p : Word) :
      ZoneWrite z zn (.brreset z)
        { par := armBreathing p zn.par, st := { zn.st with brState := .startup, brSeg := 0, brTick := 0 } }
  | brpass : ZoneWrite z zn (.brpass z) { zn with st := { zn.st with brState := .passthrough } }
  | tick (ps : Params) : ZoneWrite z zn (.tick z) { zn with st := tickState ps zn }
  | setpar (par : ZoneParams) : ZoneWrite z zn (.setpar z) { zn with par := par }
  | setst (st : ZoneState) : ZoneWrite z zn (.setst z) { zn with st := st }

/-- A zone either keeps its records or holds what the command writes. -/
def KeepsOrWrites (i : Instr) (s t : State) (z : Byte) : Prop :=
  t.zone z = s.zone z ∨ ZoneWrite z (s.zone z) i (t.zone z)

theorem KeepsOrWrites.raised (i : Instr) (s : State) (z : Byte) (c : Cause) :
    KeepsOrWrites i s (raiseBy c i s) z := by
  rw [raiseBy, raiseFault_frame]; exact .inl rfl

theorem KeepsOrWrites.setZone {i : Instr} {s : State} {z : Byte} {zn : Zone}
    (h : ZoneWrite z (s.zone z) i zn) : KeepsOrWrites i s (s.setZone z zn) z := by
  rcases zone_setZone_cases s z z zn with e | ⟨_, e⟩
  · exact .inl e
  · exact .inr (e.symm ▸ h)

theorem KeepsOrWrites.raised_or_setZone {i : Instr} {s : State} {z : Byte} {zn : Zone} (p : Prop) [Decidable p]
    (c : Cause) (h : ZoneWrite z (s.zone z) i zn) :
    KeepsOrWrites i s (if p then raiseBy c i s else s.setZone z zn) z := by
  split
  · exact .raised i s z c
  · exact .setZone h

theorem KeepsOrWrites.setY {i : Instr} {s t : State} {z : Byte} (h : KeepsOrWrites i s t z) (k : Fin 4)
    (v : DWord) : KeepsOrWrites i s (t.setY k v) z := h

theorem KeepsOrWrites.checked {i : Instr} {s rest t : State} {z : Byte} (h : KeepsOrWrites i s rest z)
    (ht : checkZone i z s rest = .next t) : KeepsOrWrites i s t z := by
  rcases checkZone_cases i z s rest with ⟨_, e⟩ | ⟨_, e⟩ <;> rw [e] at ht <;> cases ht
  · exact h
  · exact .raised i s z .badZone

/-- What a zone command makes of its own zone's records. -/
theorem exec_keepsOrWrites {i : Instr} {s t : State} (hi : isFormatZ (opcodeOf i) = true)
    (h : exec i s = .next t) : KeepsOrWrites i s t (zoneOf i) := by
  cases i with
  | ccreset z =>
    refine .checked ?_ h
    exact .raised_or_setZone _ _ (.ccreset _)
  | ccrecalc z =>
    refine .checked ?_ h
    exact .raised_or_setZone _ _ (.ccrecalc _ _)
  | brreset z =>
    refine .checked ?_ h
    exact .raised_or_setZone _ _ (.brreset _)
  | brpass z => exact .checked (.setZone .brpass) h
  | tick z =>
    refine .checked (.setY ?_ _ _) h
    exact .setZone (.tick s.params)
  | getpar z =>
    refine .checked ?_ h
    exact .inl rfl
  | setpar z => exact .checked (.setZone (.setpar _)) h
  | getst z =>
    refine .checked ?_ h
    exact .inl rfl
  | setst z =>
    refine .checked ?_ h
    split
    · exact .raised _ _ _ _
    · exact .setZone (.setst _)
  | init | sat | shr | mul | div | gam8 | gam16 | gamrgb | rgb2hsv | hsv2rgb | calboost => cases hi

/-- Every way a command can leave a zone's records: as they were, zeroed by INIT, or written by a command for
that zone. -/
theorem exec_zone_writes {i : Instr} {s t : State} (h : exec i s = .next t) (z : Byte) :
    t.zone z = s.zone z ∨ i = .init ∨ ZoneWrite z (s.zone z) i (t.zone z) := by
  rcases exec_zone_cases h z with e | ⟨hi, rfl⟩ | e
  · exact .inl e
  · exact (exec_keepsOrWrites hi h).imp_right .inr
  · exact .inr (.inl e)

/-- Settles O22, writer by writer: each clause is about a field the writer leaves, or the writer is listed. -/
theorem recordFieldsChangeOnlyByTheirWriters : Obligations.RecordFieldsChangeOnlyByTheirWriters := by
  intro i s t z p p' st st' h hs ht
  have hcases := exec_zone_writes h z
  rw [hs, ht] at hcases
  rcases hcases with e | rfl | hw
  · cases e
    simp
  · simp
  · cases hw with
    | ccreset period => simp [armColorCycle]
    | ccrecalc period idx => simp [armColorCycle]
    | brreset period => simp [armBreathing]
    | brpass => simp
    | tick ps =>
      obtain ⟨hinH, hinS, hinV⟩ := tickState_input ps { par := p, st := st }
      simp [hinH, hinS, hinV]
    | setpar par => simp
    | setst st => simp

end Sys2Proof.Machine
end

section
/-! SUPPORT. One host access inside the window (R50 to R57): what the step around a load and a store is, what the
map of R51 says of each offset, and how a register write shows in the registers read afterwards. -/

namespace Sys2Proof.Machine

/-! ### The step around one access -/

theorem step_read {s : State} {size : AccessSize} {off : Nat} {rest : List HostEvent}
    (hbus : s.bus = .read size off :: rest) (hoff : off < windowBytes) :
    step s = .next (hostRead size off { s with bus := rest }) :=
  (stepBus_cons hbus).trans (if_pos hoff)

theorem step_write {s : State} {size : AccessSize} {off : Nat} {data : Word} {rest : List HostEvent}
    (hbus : s.bus = .write size off data :: rest) (hoff : off < windowBytes) :
    step s = hostWrite size off data { s with bus := rest } :=
  (stepBus_cons hbus).trans (if_pos hoff)

theorem aligned32_word {off : Nat} (h : off % 4 = 0) : aligned32 .word off = true := by
  simp [aligned32, h]

theorem aligned32_eq_false_iff (size : AccessSize) (off : Nat) :
    aligned32 size off = false ↔ size ≠ .word ∨ off % 4 ≠ 0 := by
  simp [aligned32, imp_iff_not_or]

theorem hostRead_aligned {off : Nat} (h : off % 4 = 0) (s : State) :
    hostRead .word off s = { s with reply := some (readReg s (windowReg off)) } :=
  if_pos (aligned32_word h)

theorem hostWrite_aligned {off : Nat} (h : off % 4 = 0) (data : Word) (s : State) :
    hostWrite .word off data s = writeReg { s with reply := none } data (windowReg off) :=
  if_pos (aligned32_word h)

theorem hostRead_bad {size : AccessSize} {off : Nat} (h : aligned32 size off = false) (s : State) :
    hostRead size off s = { raiseBusError s with reply := some 0 } :=
  if_neg (by simp [h])

theorem hostWrite_bad {size : AccessSize} {off : Nat} (h : aligned32 size off = false) (data : Word)
    (s : State) : hostWrite size off data s = .next (raiseBusError { s with reply := none }) :=
  if_neg (by simp [h])

/-- BUS_ERROR in every state: recorded with FAULT_OPC and FAULT_ZONE 0, unless a fault already is (R283, R284). -/
theorem raiseBusError_status (s : State) :
    raiseBusError s =
      { s with status := if s.status.fault then s.status
          else { fault := true, cause := .busError, faultOpc := 0, faultZone := 0 } } := by
  rcases raiseFault_cases .busError 0 0 s with ⟨hf, e⟩ | ⟨hf, e⟩ <;> rw [raiseBusError, e]
  · rw [if_pos hf]
  · rw [if_neg (by simp [hf])]

/-- Settles O9: a bad load and a bad store each come down to recording BUS_ERROR. -/
theorem badAccessOnlyRecordsBusError : Obligations.BadAccessOnlyRecordsBusError := by
  intro s size off data rest hoff hbad
  have hbad' := (aligned32_eq_false_iff size off).mpr hbad
  refine ⟨fun hbus => ?_, fun hbus => ?_⟩
  · rw [step_read hbus hoff, hostRead_bad hbad', raiseBusError_status]
  · rw [step_write hbus hoff, hostWrite_bad hbad', raiseBusError_status]

/-! ### Reads, offset by offset -/

theorem windowReg_reserved {off : Nat} (h : off = 0x0C ∨ (0x50 ≤ off ∧ off < 0x80) ∨ 0xC0 ≤ off) :
    windowReg off = .reserved := by
  unfold windowReg
  rw [if_neg (by omega), if_neg (by omega), if_neg (by omega), if_neg (by omega), if_neg (by omega),
    if_neg (by omega)]

theorem halfOf_lo_eq (v : DWord) : halfOf false v = BitVec.ofNat 32 (v.toNat % 2 ^ 32) := by
  rw [← halfOf_lo_toNat, BitVec.ofNat_toNat, BitVec.setWidth_eq]

theorem halfOf_hi_eq (v : DWord) : halfOf true v = BitVec.ofNat 32 (v.toNat / 2 ^ 32) := by
  rw [← halfOf_hi_toNat, BitVec.ofNat_toNat, BitVec.setWidth_eq]

/-- Settles O10: the reply is the mapped register's value, and each clause is one row of the map. -/
theorem windowReadReturnsTheMappedRegister : Obligations.WindowReadReturnsTheMappedRegister := by
  intro s off rest hbus hoff haligned
  have hstep : step s = .next { s with bus := rest, reply := some (readReg s (windowReg off)) } := by
    rw [step_read hbus hoff, hostRead_aligned haligned]; rfl
  refine ⟨_, hstep, ?cmd, ?status, ?cfgid, ?aLo, ?aHi, ?yLo, ?yHi, ?rb, ?reserved⟩
  case cmd => rintro rfl; rfl
  case status => rintro rfl; rfl
  case cfgid => rintro rfl; rfl
  case aLo => rintro i rfl; rw [(windowReg_operand i).1]; exact halfOf_lo_eq s.a[i]
  case aHi => rintro i rfl; rw [(windowReg_operand i).2]; exact halfOf_hi_eq s.a[i]
  case yLo => rintro i rfl; rw [(windowReg_result i).1]; exact halfOf_lo_eq s.y[i]
  case yHi => rintro i rfl; rw [(windowReg_result i).2]; exact halfOf_hi_eq s.y[i]
  case rb => rintro i rfl; rw [windowReg_record i]; rfl
  case reserved => intro h; rw [windowReg_reserved h]; rfl

/-! ### Writes, register by register -/

/-- The registers a host store changes besides CMD: the halves of A and the words of RB (R51, R53). -/
def WindowReg.writable : WindowReg → Bool
  | .operandHalf _ _ => true
  | .recordWord _ => true
  | .cmd | .status | .cfgid | .resultHalf _ _ | .reserved => false

/-- The offset of a writable register in the map of R51. -/
def WindowReg.writableOffset : WindowReg → Nat
  | .operandHalf i hi => 0x10 + 8 * i.val + 4 * hi.toNat
  | .recordWord i => 0x80 + 4 * i.val
  | .cmd | .status | .cfgid | .resultHalf _ _ | .reserved => 0

theorem windowReg_writable_iff (off : Nat) :
    (windowReg off).writable = true ↔ (0x10 ≤ off ∧ off < 0x30) ∨ (0x80 ≤ off ∧ off < 0xC0) := by
  unfold windowReg
  split_ifs <;> simp only [WindowReg.writable, Bool.false_eq_true, true_iff, false_iff] <;> omega

/-- The map takes no two aligned offsets to one writable register: the offset is read back from it. -/
theorem writableOffset_windowReg {off : Nat} (haligned : off % 4 = 0)
    (hw : (windowReg off).writable = true) : (windowReg off).writableOffset = off := by
  rcases (windowReg_writable_iff off).mp hw with hrange | hrange
  · have hreg : windowReg off =
        .operandHalf (Fin.ofNat 4 ((off - 0x10) / 8)) (decide (off % 8 = 4)) := by
      unfold windowReg
      rw [if_neg (by omega), if_neg (by omega), if_neg (by omega), if_pos hrange]
    rw [hreg, WindowReg.writableOffset, Fin.val_ofNat, Bool.toNat, Bool.cond_decide]
    split <;> omega
  · have hreg : windowReg off = .recordWord (Fin.ofNat 16 ((off - 0x80) / 4)) := by
      unfold windowReg
      rw [if_neg (by omega), if_neg (by omega), if_neg (by omega), if_neg (by omega), if_neg (by omega),
        if_pos hrange]
    rw [hreg, WindowReg.writableOffset, Fin.val_ofNat]
    omega

theorem windowReg_inj_of_writable {off off' : Nat} (haligned : off % 4 = 0) (haligned' : off' % 4 = 0)
    (hw : (windowReg off).writable = true) : windowReg off' = windowReg off ↔ off' = off := by
  refine ⟨fun h => ?_, fun h => by rw [h]⟩
  rw [← writableOffset_windowReg haligned' (h ▸ hw), h, writableOffset_windowReg haligned hw]

theorem windowReg_ne_cmd {off : Nat} (h : off ≠ 0) : windowReg off ≠ .cmd := by
  unfold windowReg
  rw [if_neg h]
  split_ifs <;> exact nofun

/-- Storing one half of an operand register shows in that half alone (R56). -/
theorem readReg_setA (s : State) (i : Fin 4) (hi : Bool) (d : Word) (r : WindowReg) :
    readReg (s.setA i (withHalf hi s.a[i] d)) r = if r = .operandHalf i hi then d else readReg s r := by
  cases r with
  | operandHalf j hi' =>
    by_cases hj : j = i
    · subst hj
      simp [readReg, halfOf_withHalf]
    · have hne : i.val ≠ j.val := fun h => hj (Fin.ext h.symm)
      simp [readReg, hj, Vector.getElem_set_ne _ _ hne]
  | cmd | status | cfgid | resultHalf | recordWord | reserved => rfl

/-- Storing one record word shows in that word alone (R23, R51). -/
theorem readReg_setRb (s : State) (i : Fin 16) (d : Word) (r : WindowReg) :
    readReg (s.setRb i d) r = if r = .recordWord i then d else readReg s r := by
  cases r with
  | recordWord j =>
    simp [readReg, Vector.getElem_set, Fin.ext_iff, eq_comm]
  | cmd | status | cfgid | operandHalf | resultHalf | reserved => rfl

/-- What a register reads after a host store to any register but CMD (R53, R56). -/
theorem readReg_writeReg {s t : State} {d : Word} {r : WindowReg} (hr : r ≠ .cmd)
    (h : writeReg s d r = .next t) (r' : WindowReg) :
    readReg t r' = if r' = r ∧ r.writable = true then d else readReg s r' := by
  cases r with
  | cmd => exact absurd rfl hr
  | operandHalf i hi =>
    cases h
    simpa only [WindowReg.writable, and_true] using readReg_setA s i hi d r'
  | recordWord i =>
    cases h
    simpa only [WindowReg.writable, and_true] using readReg_setRb s i d r'
  | status | cfgid | resultHalf | reserved =>
    cases h
    simp [WindowReg.writable]

/-- A host store to any register but CMD changes nothing but A and RB (R53, R57). -/
theorem writeReg_frame {s t : State} {d : Word} {r : WindowReg} (hr : r ≠ .cmd)
    (h : writeReg s d r = .next t) : t = { s with a := t.a, rb := t.rb } := by
  cases r with
  | cmd => exact absurd rfl hr
  | operandHalf | recordWord | status | cfgid | resultHalf | reserved => cases h; rfl

/-- Settles O11: the store is one register write, and the map names each writable register by one offset. -/
theorem windowWriteChangesOnlyItsRegister : Obligations.WindowWriteChangesOnlyItsRegister := by
  intro s off data rest hbus hoff haligned hne
  have hcmd := windowReg_ne_cmd hne
  obtain ⟨t, ht⟩ := writeReg_next { s with bus := rest, reply := none } data (windowReg off)
  have hstep : step s = .next t := by rw [step_write hbus hoff, hostWrite_aligned haligned, ht]
  refine ⟨t, hstep, writeReg_frame hcmd ht, fun off' _ haligned' => ?_⟩
  have hsame : windowReg off' = windowReg off ∧ (windowReg off).writable = true ↔
      off' = off ∧ ((0x10 ≤ off ∧ off < 0x30) ∨ (0x80 ≤ off ∧ off < 0xC0)) := by
    rw [← windowReg_writable_iff]
    exact and_congr_left (windowReg_inj_of_writable haligned haligned')
  rw [readReg_writeReg hcmd ht]
  exact if_congr hsame rfl rfl

end Sys2Proof.Machine
end

section
/-! SUPPORT. Encoding (R70 to R84, R89): the decoder's arm for each opcode, that decoding and
encoding are inverse, and what each arm accepts as numbers. -/

namespace Sys2Proof

/-! ### The decoder, opcode by opcode -/

/-- The arm of the decoder that takes the words with the opcode of `k` (R80); the fields of `k` play no part. -/
def decodeArm : Instr → Word → Except DecodeError Instr
  | .init => decodeN .init
  | .sat _ _ => decodeSat
  | .shr _ _ _ _ => decodeShr
  | .mul _ _ _ _ _ _ => decodeMul
  | .div _ _ _ _ _ _ => decodeDiv
  | .gam8 => decodeN .gam8
  | .gam16 => decodeN .gam16
  | .gamrgb => decodeN .gamrgb
  | .rgb2hsv => decodeN .rgb2hsv
  | .hsv2rgb => decodeN .hsv2rgb
  | .calboost => decodeN .calboost
  | .ccreset _ => decodeZ .ccreset
  | .ccrecalc _ => decodeZ .ccrecalc
  | .brreset _ => decodeZ .brreset
  | .brpass _ => decodeZ .brpass
  | .tick _ => decodeZ .tick
  | .getpar _ => decodeZ .getpar
  | .setpar _ => decodeZ .setpar
  | .getst _ => decodeZ .getst
  | .setst _ => decodeZ .setst

/-- OPC alone selects the arm (R80). -/
theorem decode_eq_decodeArm {k : Instr} {w : Word} (h : opcField w = opcodeOf k) : decode w = decodeArm k w := by
  unfold decode
  rw [h]
  cases k <;> rfl

/-- One command for each row of the opcode map (R80). -/
def oneOfEachOpcode : List Instr :=
  [.init, .sat .signed .w16, .shr .signed .w16 .rd 0, .mul .signed .w16 .rd 0 0 0, .div .signed .w16 .rd 0 0 0,
    .gam8, .gam16, .gamrgb, .rgb2hsv, .hsv2rgb, .calboost, .ccreset 0, .ccrecalc 0, .brreset 0, .brpass 0,
    .tick 0, .getpar 0, .setpar 0, .getst 0, .setst 0]

/-- The OPC values of the map, as numbers. -/
def opcodeMap : List Nat := oneOfEachOpcode.map fun k => (opcodeOf k).toNat

theorem exists_opcodeOf {w : Word} (h : (opcField w).toNat ∈ opcodeMap) : ∃ k, opcField w = opcodeOf k := by
  obtain ⟨k, -, hk⟩ := List.mem_map.mp h
  exact ⟨k, BitVec.eq_of_toNat_eq hk.symm⟩

/-- An accepted word has an opcode of the map (R80, R84). -/
theorem exists_opcodeOf_of_decode {w : Word} {i : Instr} (h : decode w = .ok i) :
    ∃ k, opcField w = opcodeOf k := by
  refine exists_opcodeOf ?_
  unfold decode at h
  split at h
  case h_21 => cases h
  all_goals rename_i hopc; rw [hopc]; decide

/-! ### Decode after encode -/

theorem opcField_encode (i : Instr) : opcField (encode i) = opcodeOf i := by
  cases i with
  | init | gam8 | gam16 | gamrgb | rgb2hsv | hsv2rgb | calboost => exact opcField_encodeN _
  | sat | shr | mul | div => exact (fields_encodeFX ..).1
  | ccreset | ccrecalc | brreset | brpass | tick | getpar | setpar | getst | setst => exact opcField_encodeZ ..

theorem decodeN_encodeN (i : Instr) (opc : Byte) : decodeN i (encodeN opc) = .ok i :=
  if_pos (reservedN_encodeN opc)

theorem decodeZ_encodeZ (mk : Byte → Instr) (opc z : Byte) : decodeZ mk (encodeZ opc z) = .ok (mk z) := by
  rw [decodeZ, if_pos (reservedZ_encodeZ opc z), zoneField_encodeZ]

section FormatFX

variable (opc : Byte) (sg : Signedness) (w : Width) (rm : Rounding) (fa fb fr : BitVec 6)

theorem decodeSat_encodeFX : decodeSat (encodeFX opc sg w .rd 0 0 0) = .ok (.sat sg w) := by
  obtain ⟨-, -, -, -, -, hfa, hfb, hfr⟩ := fields_encodeFX opc sg w .rd 0 0 0
  simp only [decodeSat, decodeFX_encodeFX, hfa, hfb, hfr, and_self, ↓reduceIte]

theorem decodeShr_encodeFX : decodeShr (encodeFX opc sg w rm fa 0 0) = .ok (.shr sg w rm fa) := by
  obtain ⟨-, -, -, -, -, hfa, hfb, hfr⟩ := fields_encodeFX opc sg w rm fa 0 0
  simp only [decodeShr, decodeFX_encodeFX, hfa, hfb, hfr, and_self, ↓reduceIte]

theorem decodeMul_encodeFX (h : (Instr.mul sg w rm fa fb fr).wellFormed = true) :
    decodeMul (encodeFX opc sg w rm fa fb fr) = .ok (.mul sg w rm fa fb fr) := by
  obtain ⟨-, -, -, -, -, hfa, hfb, hfr⟩ := fields_encodeFX opc sg w rm fa fb fr
  simp only [Instr.wellFormed, Bool.and_eq_true] at h
  obtain ⟨⟨hw, hrm⟩, hrescale⟩ := h
  simp only [decodeMul, decodeFX_encodeFX, hfa, hfb, hfr, hw, hrm, hrescale, ↓reduceIte]

theorem decodeDiv_encodeFX (h : (Instr.div sg w rm fa fb fr).wellFormed = true) :
    decodeDiv (encodeFX opc sg w rm fa fb fr) = .ok (.div sg w rm fa fb fr) := by
  obtain ⟨-, -, -, -, -, hfa, hfb, hfr⟩ := fields_encodeFX opc sg w rm fa fb fr
  simp only [Instr.wellFormed, Bool.and_eq_true] at h
  obtain ⟨⟨hw, hrm⟩, hrescale⟩ := h
  simp only [decodeDiv, decodeFX_encodeFX, hfa, hfb, hfr, hw, hrm, hrescale, ↓reduceIte]

end FormatFX

theorem decodeArm_encode {i : Instr} (hi : i.wellFormed = true) : decodeArm i (encode i) = .ok i := by
  cases i with
  | init | gam8 | gam16 | gamrgb | rgb2hsv | hsv2rgb | calboost => exact decodeN_encodeN ..
  | sat => exact decodeSat_encodeFX ..
  | shr => exact decodeShr_encodeFX ..
  | mul => exact decodeMul_encodeFX (h := hi) ..
  | div => exact decodeDiv_encodeFX (h := hi) ..
  | ccreset | ccrecalc | brreset | brpass | tick | getpar | setpar | getst | setst => exact decodeZ_encodeZ ..

/-- Settles O1: the word of a command has its opcode, and the arm of that opcode reads its fields back. -/
theorem decodeOfEncodeIsTheCommand : Obligations.DecodeOfEncodeIsTheCommand := fun i hi =>
  (decode_eq_decodeArm (opcField_encode i)).trans (decodeArm_encode hi)

theorem decode_eq_ok {w : Word} {i : Instr} (hw : encode i = w) (hi : i.wellFormed = true) : decode w = .ok i :=
  hw ▸ decodeOfEncodeIsTheCommand i hi

/-- Settles O4: each legal word is the encoding of its command; the other two words are rejected by name. -/
theorem exampleWordsDecode : Obligations.ExampleWordsDecode :=
  ⟨decode_eq_ok rfl rfl, decode_eq_ok rfl rfl, decode_eq_ok rfl rfl, decode_eq_ok rfl rfl,
    decode_eq_ok rfl rfl, decode_eq_ok rfl rfl, decode_eq_ok rfl rfl, decode_eq_ok rfl rfl,
    decode_eq_ok rfl rfl, decode_eq_ok rfl rfl, decode_eq_ok rfl rfl, decode_eq_ok rfl rfl, rfl,
    decode_eq_ok rfl rfl, rfl⟩

/-! ### Encode after decode -/

/-- What an arm answers is well formed, and with the arm's opcode it encodes to the word. -/
theorem encode_of_decodeArm {k i : Instr} {w : Word} (hopc : opcField w = opcodeOf k)
    (h : decodeArm k w = .ok i) : encode i = w ∧ i.wellFormed = true := by
  cases k with
  | init | gam8 | gam16 | gamrgb | rgb2hsv | hsv2rgb | calboost =>
    obtain ⟨rfl, hw⟩ := decodeN_ok h
    rw [hopc] at hw
    exact ⟨hw, rfl⟩
  | sat =>
    obtain ⟨sg, wd, rfl, hw⟩ := decodeSat_ok h
    rw [hopc] at hw
    exact ⟨hw, rfl⟩
  | shr =>
    obtain ⟨sg, wd, rm, sh, rfl, hw⟩ := decodeShr_ok h
    rw [hopc] at hw
    exact ⟨hw, rfl⟩
  | mul =>
    obtain ⟨sg, wd, rm, fa, fb, fr, rfl, hwf, hw⟩ := decodeMul_ok h
    rw [hopc] at hw
    exact ⟨hw, hwf⟩
  | div =>
    obtain ⟨sg, wd, rm, fa, fb, fr, rfl, hwf, hw⟩ := decodeDiv_ok h
    rw [hopc] at hw
    exact ⟨hw, hwf⟩
  | ccreset | ccrecalc | brreset | brpass | tick | getpar | setpar | getst | setst =>
    obtain ⟨rfl, hw⟩ := decodeZ_ok h
    rw [hopc] at hw
    exact ⟨hw, rfl⟩

/-- Settles O2: the word decodes by the arm of its opcode, and each arm accounts for every bit of its words. -/
theorem encodeOfDecodeIsTheWord : Obligations.EncodeOfDecodeIsTheWord := by
  intro w i h
  obtain ⟨k, hopc⟩ := exists_opcodeOf_of_decode h
  exact encode_of_decodeArm hopc (decode_eq_decodeArm hopc ▸ h)

/-! ### What each arm accepts, as numbers -/

/-- A check in front of a decoder: the word passes it and the rest accepts the word. -/
theorem guard_accepts_iff (c : Prop) [Decidable c] (x : Except DecodeError Instr) (e : DecodeError) :
    (∃ j, (if c then x else .error e) = .ok j) ↔ c ∧ ∃ j, x = .ok j := by
  split <;> simp [*]

theorem decodeN_accepts_iff (i : Instr) (w : Word) : (∃ j, decodeN i w = .ok j) ↔ w.toNat / 2 ^ 8 = 0 := by
  simp [decodeN, guard_accepts_iff, ← BitVec.toNat_inj, reservedN_toNat]

theorem decodeZ_accepts_iff (mk : Byte → Instr) (w : Word) :
    (∃ j, decodeZ mk w = .ok j) ↔ w.toNat / 2 ^ 16 = 0 := by
  simp [decodeZ, guard_accepts_iff, ← BitVec.toNat_inj, reservedZ_toNat]

theorem widthOf_eq_some_iff {c : BitVec 2} {wd : Width} : widthOf c = some wd ↔ c.toNat = (widthCode wd).toNat :=
  ⟨fun h => by rw [widthCode_of h], fun h => by rw [BitVec.eq_of_toNat_eq h, widthOf_code]⟩

theorem roundingOf_eq_some_iff {c : BitVec 2} {rm : Rounding} :
    roundingOf c = some rm ↔ c.toNat = (roundingCode rm).toNat :=
  ⟨fun h => by rw [roundingCode_of h], fun h => by rw [BitVec.eq_of_toNat_eq h, roundingOf_code]⟩

/-- The checks of format FX: bit 31 is 0, W and RM name a width and a mode, and the command's own check passes. -/
theorem decodeFX_accepts_iff (mk : Signedness → Width → Rounding → Except DecodeError Instr) (w : Word) :
    (∃ j, decodeFX mk w = .ok j) ↔ w.toNat / 2 ^ 31 = 0 ∧
      ∃ wd, w.toNat / 2 ^ 9 % 4 = (widthCode wd).toNat ∧ ∃ rm, w.toNat / 2 ^ 11 % 4 = (roundingCode rm).toNat ∧
        ∃ j, mk (signednessOf (sField w)) wd rm = .ok j := by
  have hreserved : reservedFX w = 0 ↔ w.toNat / 2 ^ 31 = 0 := by
    rw [← reservedFX_toNat, ← BitVec.toNat_inj]; rfl
  simp only [← wField_toNat, ← rmField_toNat, ← widthOf_eq_some_iff, ← roundingOf_eq_some_iff, decodeFX,
    guard_accepts_iff, hreserved]
  cases widthOf (wField w) with
  | none => simp
  | some wd => cases roundingOf (rmField w) <;> simp

theorem exists_widthCode_iff {n : Nat} {p : Width → Prop} :
    (∃ wd, n = (widthCode wd).toNat ∧ p wd) ↔ n = 0 ∧ p .w16 ∨ n = 1 ∧ p .w32 ∨ n = 2 ∧ p .w64 := by
  constructor
  · rintro ⟨wd, rfl, h⟩
    cases wd <;> simp [widthCode, h]
  · rintro (⟨rfl, h⟩ | ⟨rfl, h⟩ | ⟨rfl, h⟩) <;> exact ⟨_, rfl, h⟩

theorem exists_roundingCode_iff {n : Nat} {p : Rounding → Prop} :
    (∃ rm, n = (roundingCode rm).toNat ∧ p rm) ↔ n = 0 ∧ p .rd ∨ n = 1 ∧ p .ru ∨ n = 2 ∧ p .rn := by
  constructor
  · rintro ⟨rm, rfl, h⟩
    cases rm <;> simp [roundingCode, h]
  · rintro (⟨rfl, h⟩ | ⟨rfl, h⟩ | ⟨rfl, h⟩) <;> exact ⟨_, rfl, h⟩

theorem faField_eq_zero_iff (w : Word) : faField w = 0 ↔ w.toNat / 2 ^ 13 % 64 = 0 := by
  rw [← faField_toNat, ← BitVec.toNat_inj]; rfl

theorem fbField_eq_zero_iff (w : Word) : fbField w = 0 ↔ w.toNat / 2 ^ 19 % 64 = 0 := by
  rw [← fbField_toNat, ← BitVec.toNat_inj]; rfl

theorem frField_eq_zero_iff (w : Word) : frField w = 0 ↔ w.toNat / 2 ^ 25 % 64 = 0 := by
  rw [← frField_toNat, ← BitVec.toNat_inj]; rfl

theorem decodeSat_accepts_iff (w : Word) : (∃ j, decodeSat w = .ok j) ↔
    w.toNat / 2 ^ 31 = 0 ∧ w.toNat / 2 ^ 9 % 4 ≠ 3 ∧ w.toNat / 2 ^ 11 % 4 = 0 ∧ w.toNat / 2 ^ 13 % 64 = 0 ∧
      w.toNat / 2 ^ 19 % 64 = 0 ∧ w.toNat / 2 ^ 25 % 64 = 0 := by
  simp only [decodeSat, decodeFX_accepts_iff, guard_accepts_iff, exists_widthCode_iff, exists_roundingCode_iff,
    faField_eq_zero_iff, fbField_eq_zero_iff, frField_eq_zero_iff, Except.ok.injEq, exists_eq', and_true, true_and,
    reduceCtorEq, false_and, and_false, or_false]
  omega

theorem decodeShr_accepts_iff (w : Word) : (∃ j, decodeShr w = .ok j) ↔
    w.toNat / 2 ^ 31 = 0 ∧ w.toNat / 2 ^ 9 % 4 ≠ 3 ∧ w.toNat / 2 ^ 11 % 4 ≠ 3 ∧ w.toNat / 2 ^ 19 % 64 = 0 ∧
      w.toNat / 2 ^ 25 % 64 = 0 := by
  simp only [decodeShr, decodeFX_accepts_iff, guard_accepts_iff, exists_widthCode_iff, exists_roundingCode_iff,
    fbField_eq_zero_iff, frField_eq_zero_iff, Except.ok.injEq, exists_eq', and_true]
  omega

theorem decodeMul_accepts_iff (w : Word) : (∃ j, decodeMul w = .ok j) ↔
    w.toNat / 2 ^ 31 = 0 ∧ w.toNat / 2 ^ 9 % 4 < 2 ∧ (w.toNat / 2 ^ 11 % 4 = 0 ∨ w.toNat / 2 ^ 11 % 4 = 2) ∧
      w.toNat / 2 ^ 25 % 64 ≤ w.toNat / 2 ^ 13 % 64 + w.toNat / 2 ^ 19 % 64 := by
  simp only [decodeMul, decodeFX_accepts_iff, guard_accepts_iff, exists_widthCode_iff, exists_roundingCode_iff,
    Width.acceptedByMulDiv, Rounding.acceptedByMulDiv, mulRescales, faField_toNat, fbField_toNat, frField_toNat,
    decide_eq_true_eq, Except.ok.injEq, exists_eq', and_true, true_and, Bool.false_eq_true, false_and, and_false,
    or_false, false_or]
  omega

theorem decodeDiv_accepts_iff (w : Word) : (∃ j, decodeDiv w = .ok j) ↔
    w.toNat / 2 ^ 31 = 0 ∧ w.toNat / 2 ^ 9 % 4 < 2 ∧ (w.toNat / 2 ^ 11 % 4 = 0 ∨ w.toNat / 2 ^ 11 % 4 = 2) ∧
      w.toNat / 2 ^ 19 % 64 + w.toNat / 2 ^ 25 % 64 ≤
        w.toNat / 2 ^ 13 % 64 + 16 * (w.toNat / 2 ^ 9 % 4 + 1) := by
  simp only [decodeDiv, decodeFX_accepts_iff, guard_accepts_iff, exists_widthCode_iff, exists_roundingCode_iff,
    Width.acceptedByMulDiv, Rounding.acceptedByMulDiv, divRescales, Width.bits, faField_toNat, fbField_toNat,
    frField_toNat, decide_eq_true_eq, Except.ok.injEq, exists_eq', and_true, true_and, Bool.false_eq_true, false_and,
    and_false, or_false, false_or]
  omega

end Sys2Proof
end

section
/-! SUPPORT. Legal words (R81 to R84): the decoder against `legalWord`, what an illegal word does at CMD (R283), and
the operand forms as numbers (R76, R100). -/

namespace Sys2Proof.Machine

/-- With its opcode known, `legalWord` is the clause of that opcode's arm. -/
theorem decodeArm_accepts_iff {k : Instr} {w : Word} (h : opcField w = opcodeOf k) :
    (∃ i, decodeArm k w = .ok i) ↔ legalWord w := by
  have hopc : w.toNat % 256 = (opcodeOf k).toNat := by rw [← h, opcField_toNat]; rfl
  cases k with
  | init | gam8 | gam16 | gamrgb | rgb2hsv | hsv2rgb | calboost =>
    exact (decodeN_accepts_iff ..).trans (by simp [legalWord, hopc, opcodeOf])
  | sat => exact (decodeSat_accepts_iff w).trans (by simp [legalWord, hopc, opcodeOf])
  | shr => exact (decodeShr_accepts_iff w).trans (by simp [legalWord, hopc, opcodeOf])
  | mul => exact (decodeMul_accepts_iff w).trans (by simp [legalWord, hopc, opcodeOf])
  | div => exact (decodeDiv_accepts_iff w).trans (by simp [legalWord, hopc, opcodeOf])
  | ccreset | ccrecalc | brreset | brpass | tick | getpar | setpar | getst | setst =>
    exact (decodeZ_accepts_iff ..).trans (by simp [legalWord, hopc, opcodeOf])

theorem exists_opcodeOf_of_legalWord {w : Word} (h : legalWord w) : ∃ k, opcField w = opcodeOf k := by
  refine exists_opcodeOf ?_
  rw [opcField_toNat]
  rcases h with ⟨hopc, -⟩ | ⟨hopc, -⟩ | ⟨hopc, -⟩ | ⟨hopc, -⟩ | ⟨hopc, -⟩ | ⟨hopc, -⟩
  case inl | inr.inl => exact (by decide : ∀ n ∈ _, n ∈ opcodeMap) _ hopc
  all_goals rw [hopc]; decide

/-- Settles O3: the opcode picks the arm of the decoder and the clause of `legalWord`, and the two agree. -/
theorem decodeAcceptsExactlyTheLegalWords : Obligations.DecodeAcceptsExactlyTheLegalWords := by
  refine fun w => ⟨fun ⟨i, h⟩ => ?_, fun h => ?_⟩
  · obtain ⟨k, hopc⟩ := exists_opcodeOf_of_decode h
    exact (decodeArm_accepts_iff hopc).mp ⟨i, decode_eq_decodeArm hopc ▸ h⟩
  · obtain ⟨k, hopc⟩ := exists_opcodeOf_of_legalWord h
    obtain ⟨i, hi⟩ := (decodeArm_accepts_iff hopc).mpr h
    exact ⟨i, (decode_eq_decodeArm hopc).trans hi⟩

/-- The format-Z opcodes of the map (R73, R80). -/
theorem isFormatZ_iff (opc : Byte) : isFormatZ opc = true ↔
    opc.toNat ∈ [0x50, 0x51, 0x52, 0x53, 0x54, 0x60, 0x61, 0x62, 0x63] := by
  simp only [isFormatZ, Bool.or_eq_true, Bool.and_eq_true, decide_eq_true_eq, List.mem_cons, List.not_mem_nil,
    or_false]
  omega

/-- What an illegal word records on a unit without a fault, as numbers (R283). -/
theorem raiseIllegalWord_eq {s : State} (h : s.status.fault = false) (w : Word) :
    raiseIllegalWord w s = { s with
      status :=
        { fault := true
          cause := .illegalCmd
          faultOpc := BitVec.ofNat 8 (w.toNat % 2 ^ 8)
          faultZone :=
            if w.toNat % 2 ^ 8 ∈ [0x50, 0x51, 0x52, 0x53, 0x54, 0x60, 0x61, 0x62, 0x63] then
              BitVec.ofNat 8 (w.toNat / 2 ^ 8 % 2 ^ 8)
            else 0 } } := by
  simp only [raiseIllegalWord, raiseFault, h, Bool.false_eq_true, ↓reduceIte, isFormatZ_iff, ← opcField_toNat,
    ← zoneField_toNat, BitVec.ofNat_toNat, BitVec.setWidth_eq]

theorem step_cmd {s : State} {w : Word} {rest : List HostEvent} (hbus : s.bus = .write .word 0x00 w :: rest) :
    step s = performCommand w { s with bus := rest, reply := none } :=
  (stepBus_cons hbus).trans (hostEvent_write_cmd w _)

/-- Settles O6: the decoder rejects the word, and the fault names its OPC and ZONE fields. -/
theorem illegalWordOnlyRecordsIllegalCmd : Obligations.IllegalWordOnlyRecordsIllegalCmd := by
  intro s w rest hbus hfault hillegal
  cases hd : decode w with
  | ok i => exact absurd ((decodeAcceptsExactlyTheLegalWords w).mp ⟨i, hd⟩) hillegal
  | error e =>
    calc step s = performCommand w { s with bus := rest, reply := none } := step_cmd hbus
      _ = .next (raiseIllegalWord w { s with bus := rest, reply := none }) :=
        performCommand_illegal (s := { s with bus := rest, reply := none }) hfault hd
      _ = _ := congrArg _ (raiseIllegalWord_eq (s := { s with bus := rest, reply := none }) hfault w)

/-- Settles O24: the sign bit of the low N bits is set from 2 ^ (N - 1) on. -/
theorem operandIsTheLowBits : Obligations.OperandIsTheLowBits := by
  refine fun w v => ⟨by rw [operand, BitVec.toNat_setWidth], ?_⟩
  rw [operand, BitVec.toInt_eq_toNat_cond, BitVec.toNat_setWidth]
  cases w <;> simp only [Width.bits] <;> split_ifs <;> omega

end Sys2Proof.Machine
end

section
/-! SUPPORT. The fixed-point family (R102 to R108): what SAT, SHR, MUL and DIV answer, the widths that the exact
product, the exact quotient and their rounding fit, and when a quotient overflows. -/

namespace Sys2Proof.Machine

/-! ### What each command answers -/

theorem exec_mul {sg : Signedness} {w : Width} {rm : Rounding} {fa fb fr : BitVec 6}
    (h : (Instr.mul sg w rm fa fb fr).wellFormed = true) (s : State) :
    exec (.mul sg w rm fa fb fr) s =
      .next (s.setY 0 (resultWord (mulResult sg w rm fa fb fr s.a[0] s.a[1]))) :=
  if_pos h

section Div

variable {sg : Signedness} {w : Width} {rm : Rounding} {fa fb fr : BitVec 6} {s : State}

theorem exec_div_zero (h : (Instr.div sg w rm fa fb fr).wellFormed = true) (hb : operand sg w s.a[1] = 0) :
    exec (.div sg w rm fa fb fr) s = .next (raiseBy .divZero (.div sg w rm fa fb fr) s) :=
  (if_pos h).trans (if_pos hb)

theorem exec_div_overflow (h : (Instr.div sg w rm fa fb fr).wellFormed = true) (hb : operand sg w s.a[1] ≠ 0)
    (ho : quotientOverflows sg w (divResult sg w rm fa fb fr s.a[0] s.a[1]) = true) :
    exec (.div sg w rm fa fb fr) s = .next (raiseBy .divOverflow (.div sg w rm fa fb fr) s) :=
  (if_pos h).trans ((if_neg hb).trans (if_pos ho))

theorem exec_div_result (h : (Instr.div sg w rm fa fb fr).wellFormed = true) (hb : operand sg w s.a[1] ≠ 0)
    (ho : quotientOverflows sg w (divResult sg w rm fa fb fr s.a[0] s.a[1]) = false) :
    exec (.div sg w rm fa fb fr) s =
      .next (s.setY 0 (resultWord (divResult sg w rm fa fb fr s.a[0] s.a[1]))) :=
  (if_pos h).trans ((if_neg hb).trans (if_neg (ne_true_of_eq_false ho)))

theorem div_acceptedRounding (h : (Instr.div sg w rm fa fb fr).wellFormed = true) :
    rm.acceptedByMulDiv = true := by
  simp only [Instr.wellFormed, Bool.and_eq_true] at h
  obtain ⟨⟨-, hrm⟩, -⟩ := h
  exact hrm

end Div

/-! ### Rounding and multiplying within a width -/

/-- Dividing by a positive integer and rounding, under any mode, leaves no width (R107). -/
theorem fitsWidth_of_roundsTo {sg : Signedness} {n : Nat} {rm : Rounding} {num den r : Int} (hd : 0 < den)
    (h : RoundsTo rm num den r) (hnum : FitsWidth sg n num) : FitsWidth sg n r := by
  cases sg with
  | unsigned =>
    obtain ⟨hlo, hhi⟩ := hnum
    obtain ⟨hr0, hr⟩ := roundsTo_between (lo := 0) (hi := 2 ^ n - 1) hd h (by omega) (by nlinarith)
    exact ⟨hr0, by omega⟩
  | signed =>
    obtain ⟨hlo, hhi⟩ := hnum
    have hp : (0 : Int) < 2 ^ (n - 1) := by positivity
    obtain ⟨hrlo, hr⟩ :=
      roundsTo_between (lo := -(2 ^ (n - 1))) (hi := 2 ^ (n - 1) - 1) hd h (by nlinarith) (by nlinarith)
    exact ⟨hrlo, by omega⟩

/-- The half range of 2N bits, from the half range of N bits. -/
theorem half_double_width {n : Nat} (hn : 0 < n) : (2 : Int) ^ (2 * n - 1) = 2 ^ (n - 1) * 2 ^ n := by
  rw [← pow_add]
  congr 1
  omega

/-- The exact product of two N-bit operands fits 2N bits (R108). -/
theorem fitsWidth_mul {sg : Signedness} {n : Nat} (hn : 0 < n) {a b : Int} (ha : FitsWidth sg n a)
    (hb : FitsWidth sg n b) : FitsWidth sg (2 * n) (a * b) := by
  cases sg with
  | unsigned =>
    obtain ⟨ha0, ha1⟩ := ha
    obtain ⟨hb0, hb1⟩ := hb
    refine ⟨mul_nonneg ha0 hb0, ?_⟩
    rw [two_mul, pow_add]
    exact mul_lt_mul'' ha1 hb1 ha0 hb0
  | signed =>
    obtain ⟨ha0, ha1⟩ := ha
    obtain ⟨hb0, hb1⟩ := hb
    have hp : (0 : Int) < 2 ^ (n - 1) := by positivity
    have hab : |a * b| ≤ 2 ^ (n - 1) * 2 ^ (n - 1) := by
      rw [abs_mul]
      exact mul_le_mul (abs_le.mpr ⟨ha0, ha1.le⟩) (abs_le.mpr ⟨hb0, hb1.le⟩) (abs_nonneg b) hp.le
    obtain ⟨hlo, hhi⟩ := abs_le.mp hab
    rw [FitsWidth, half_double_width hn, ← mul_pow_sub_one hn.ne' (2 : Int)]
    constructor <;> nlinarith

/-- A numerator a * 2^N of DIV fits 2N bits when a fits N (R105). -/
theorem fitsWidth_mul_two_pow {sg : Signedness} {n : Nat} (hn : 0 < n) {a : Int} (ha : FitsWidth sg n a) :
    FitsWidth sg (2 * n) (a * 2 ^ n) := by
  have hp : (0 : Int) < 2 ^ n := by positivity
  cases sg with
  | unsigned =>
    obtain ⟨hlo, hhi⟩ := ha
    refine ⟨mul_nonneg hlo hp.le, ?_⟩
    rw [two_mul, pow_add]
    exact mul_lt_mul_of_pos_right hhi hp
  | signed =>
    obtain ⟨hlo, hhi⟩ := ha
    rw [FitsWidth, half_double_width hn, ← neg_mul]
    exact ⟨mul_le_mul_of_nonneg_right hlo hp.le, mul_lt_mul_of_pos_right hhi hp⟩

theorem width_bits_pos (w : Width) : 0 < w.bits := by
  cases w <;> decide

/-! ### The quotient of DIV -/

/-- The quotient rounds the exact ratio, the denominator made positive by the sign of b (R105). -/
theorem quotient_rounds (w : Width) {rm : Rounding} (hrm : rm.acceptedByMulDiv = true) (a : Int) {b : Int}
    (hb : b ≠ 0) (sh : Nat) :
    RoundsTo rm (b.sign * (a * 2 ^ w.bits)) (b.sign * (b * 2 ^ sh)) (quotient w rm a b sh) := by
  have hp : (0 : Int) < 2 ^ sh := by positivity
  rcases lt_or_gt_of_ne hb with hneg | hpos
  · have hden : b * 2 ^ sh < 0 := mul_neg_of_neg_of_pos hneg hp
    rw [quotient, if_pos hden, Int.sign_eq_neg_one_of_neg hneg, neg_one_mul, neg_one_mul]
    exact roundQuotient_rounds hrm _ (neg_pos.mpr hden)
  · have hden : 0 < b * 2 ^ sh := mul_pos hpos hp
    rw [quotient, if_neg hden.not_gt, Int.sign_eq_one_of_pos hpos, one_mul, one_mul]
    exact roundQuotient_rounds hrm _ hden

/-- The one way a numerator loses its width to the sign of b: the least a, negated. -/
theorem sign_mul_fits_or {sg : Signedness} {n : Nat} {a b : Int} (ha : FitsWidth sg n a) (hb : FitsWidth sg n b)
    (hb0 : b ≠ 0) :
    FitsWidth sg n (b.sign * a) ∨ (sg = .signed ∧ a = -(2 ^ (n - 1)) ∧ b < 0) := by
  rcases lt_or_gt_of_ne hb0 with hneg | hpos
  · cases sg with
    | unsigned => exact absurd hb.1 hneg.not_ge
    | signed =>
      by_cases hmin : a = -(2 ^ (n - 1))
      · exact .inr ⟨rfl, hmin, hneg⟩
      · obtain ⟨hlo, hhi⟩ := ha
        rw [Int.sign_eq_neg_one_of_neg hneg]
        exact .inl ⟨by omega, by omega⟩
  · rw [Int.sign_eq_one_of_pos hpos, one_mul]
    exact .inl ha

/-- Every quotient but that of the overflowing pair fits 2N bits (R105, R108). -/
theorem quotient_fits {sg : Signedness} {n : Nat} (hn : 0 < n) {rm : Rounding} {a b r : Int} {sh : Nat}
    (ha : FitsWidth sg n a) (hb : FitsWidth sg n b) (hb0 : b ≠ 0)
    (hpair : ¬ (sg = .signed ∧ a = -(2 ^ (n - 1)) ∧ b = -1 ∧ sh = 0))
    (h : RoundsTo rm (b.sign * (a * 2 ^ n)) (b.sign * (b * 2 ^ sh)) r) : FitsWidth sg (2 * n) r := by
  have hsh : (0 : Int) < 2 ^ sh := by positivity
  rw [← mul_assoc, ← mul_assoc, Int.sign_mul_self_eq_abs] at h
  rcases sign_mul_fits_or ha hb hb0 with hfits | ⟨rfl, rfl, hneg⟩
  · exact fitsWidth_of_roundsTo (by positivity) h (fitsWidth_mul_two_pow hn hfits)
  · have hden : 2 ≤ |b| * 2 ^ sh := by
      rw [abs_of_neg hneg]
      by_cases hb1 : b = -1
      · have hsh0 : sh ≠ 0 := fun h0 => hpair ⟨rfl, rfl, hb1, h0⟩
        have := le_self_pow₀ (one_le_two (α := Int)) hsh0
        nlinarith
      · have hb2 : b ≤ -2 := by omega
        nlinarith
    have hp : (2 : Int) ≤ 2 ^ (2 * n - 1) := le_self_pow₀ one_le_two (by omega)
    rw [Int.sign_eq_neg_one_of_neg hneg, neg_one_mul, neg_neg, ← half_double_width hn] at h
    obtain ⟨hlo, hhi⟩ :=
      roundsTo_between (lo := 0) (hi := 2 ^ (2 * n - 1) - 1) (by omega) h (by omega) (by nlinarith)
    exact ⟨by omega, by omega⟩

theorem quotientOverflows_of_fits {sg : Signedness} {w : Width} {r : Int} (h : FitsWidth sg (2 * w.bits) r) :
    quotientOverflows sg w r = false := by
  cases sg with
  | unsigned => rfl
  | signed =>
    obtain ⟨hlo, hhi⟩ := h
    simp only [quotientOverflows, Bool.not_eq_false', Bool.and_eq_true, decide_eq_true_eq]
    exact ⟨hlo, by omega⟩

/-- The overflowing pair's quotient is the least number above the range, under either mode (R105). -/
theorem quotient_overflowing_pair (w : Width) {rm : Rounding} (hrm : rm.acceptedByMulDiv = true) :
    quotient w rm (-(2 ^ (w.bits - 1))) (-1) 0 = 2 ^ (2 * w.bits - 1) := by
  have h := quotient_rounds w hrm (-(2 ^ (w.bits - 1))) (b := -1) (by decide) 0
  simp only [Int.sign_neg, Int.sign_one, neg_mul, mul_neg, neg_neg, one_mul, pow_zero,
    mul_one] at h
  obtain ⟨hlo, hhi⟩ := roundsTo_between one_pos h (mul_one _).le (mul_one _).ge
  rw [half_double_width (width_bits_pos w)]
  exact le_antisymm hhi hlo

theorem quotientOverflows_pair (w : Width) : quotientOverflows .signed w (2 ^ (2 * w.bits - 1)) = true := by
  simp only [quotientOverflows, Bool.not_eq_true', Bool.and_eq_false_iff, decide_eq_false_iff_not]
  exact .inr (by omega)

/-! ### The obligations -/

/-- Settles O25: the clamp of R15 is the max of a min, since -B is at most B. -/
theorem satClampsToTheBound : Obligations.SatClampsToTheBound := by
  intro sg w s B hB
  have hclamp : satResult sg w s.a[0] s.a[1] = max (-B) (min (operand sg w s.a[0]) B) := by
    rw [satResult, boundOperand_eq, ← hB]
    exact clamp_eq_max_min _ (by omega)
  rw [← hclamp]
  rfl

/-- Settles O26: the shift rounds by its mode, and rounding x / 2^SH leaves no width. -/
theorem shrRoundsByItsMode : Obligations.ShrRoundsByItsMode := fun sg w rm sh s =>
  have hr := shiftRight_rounds rm (operand sg w s.a[0]) sh.toNat
  ⟨_, rfl, hr, fitsWidth_of_roundsTo (by positivity) hr (operand_fits sg w s.a[0])⟩

/-- Settles O27: the exact product fits 2N bits, and the rescale leaves no width. -/
theorem mulRoundsTheExactProduct : Obligations.MulRoundsTheExactProduct := by
  intro sg w rm fa fb fr sh s hwf hsh
  obtain rfl : mulShift fa fb fr = sh := by
    unfold mulShift
    omega
  have hr := shiftRight_rounds rm (operand sg w s.a[0] * operand sg w s.a[1]) (mulShift fa fb fr)
  have hprod := fitsWidth_mul (width_bits_pos w) (operand_fits sg w s.a[0]) (operand_fits sg w s.a[1])
  exact ⟨_, exec_mul hwf s, hr, fitsWidth_of_roundsTo (by positivity) hr hprod⟩

/-- Settles O28: the rounded quotient fits 2N bits, so DIV's range check passes it on. -/
theorem divRoundsTheExactQuotient : Obligations.DivRoundsTheExactQuotient := by
  rintro sg w rm fa fb fr sh s _ _ hwf hsh rfl rfl hb hpair
  obtain rfl : divShift w fa fb fr = sh := by
    unfold divShift
    omega
  have hr := quotient_rounds w (div_acceptedRounding hwf) (operand sg w s.a[0]) hb (divShift w fa fb fr)
  have hfits := quotient_fits (width_bits_pos w) (operand_fits sg w _) (operand_fits sg w _) hb hpair hr
  exact ⟨_, exec_div_result hwf hb (quotientOverflows_of_fits hfits), hr, hfits⟩

/-- Settles O29: DIV_ZERO by the check of b; DIV_OVERFLOW because the pair's quotient is 2^(2N-1). -/
theorem divFaultsOnZeroAndOverflow : Obligations.DivFaultsOnZeroAndOverflow := by
  rintro sg w rm fa fb fr s _ rfl hwf hfault
  refine ⟨fun hb => ?_, ?_⟩
  · rw [exec_div_zero hwf hb, raiseBy_eq hfault]
  · rintro rfl ha hb hsh
    have hshift : divShift w fa fb fr = 0 := by
      unfold divShift
      omega
    have hres : divResult .signed w rm fa fb fr s.a[0] s.a[1] = 2 ^ (2 * w.bits - 1) := by
      rw [divResult, ha, hb, hshift, quotient_overflowing_pair w (div_acceptedRounding hwf)]
    rw [exec_div_overflow hwf (by rw [hb]; decide) (hres ▸ quotientOverflows_pair w), raiseBy_eq hfault]

end Sys2Proof.Machine
end

section
/-! SUPPORT. The gamma engine (R130 to R136): what each command answers, the series as the sum of R133, GAM16 as
the number it denormalises, and its values at the two ends. -/

namespace Sys2Proof.Machine

/-! ### The Q4.27 product at 0 and at ONE -/

@[simp] theorem zero_rmul27 (b : Int) : rmul27 0 b = 0 := by
  rw [rmul27, zero_mul]
  rfl

@[simp] theorem rmul27_zero (a : Int) : rmul27 a 0 = 0 := by
  rw [rmul27, mul_zero]
  rfl

@[simp] theorem rmul27_one (a : Int) : rmul27 a one = a := by
  refine nearest_unique (by decide) (rmul27_nearest a one) ?_
  rw [one_eq]
  constructor <;> linarith

/-! ### The series of R133 -/

@[simp] theorem seriesPower_zero (u : Int) : seriesPower u 0 = one := rfl

theorem seriesPower_succ (u : Int) (k : Nat) : seriesPower u (k + 1) = rmul27 (seriesPower u k) u := rfl

/-- At the j-th power on, n terms of the engine's loop are the sum of n terms of R133; a coefficient past the
end of the list counts as 0. -/
theorem seriesFrom_take_eq_sum (u : Int) (l : List Word) (n j : Nat) :
    seriesFrom u (l.take n) (seriesPower u j) =
      ∑ k ∈ Finset.range n, rmul27 (l.getD k 0).toInt (seriesPower u (j + k)) := by
  induction n generalizing l j with
  | zero => rfl
  | succ n ih =>
    cases l with
    | nil => simp
    | cons c rest =>
      rw [List.take_succ_cons, seriesFrom_cons, ← seriesPower_succ, ih, Finset.sum_range_succ', add_comm]
      simp only [List.getD_cons_succ, List.getD_cons_zero, Nat.add_zero, Nat.add_right_comm, ← Nat.add_assoc]

theorem gammaSeries_eq_sum (p : Params) (u : Int) :
    gammaSeries p u =
      ∑ k ∈ Finset.range p.gammaOrder, rmul27 (p.gammaCoef.toList.getD k 0).toInt (seriesPower u k) :=
  (seriesFrom_take_eq_sum u p.gammaCoef.toList p.gammaOrder 0).trans (by simp only [Nat.zero_add])

/-- At u = 0 every power but the first vanishes, so the series is its constant coefficient. -/
theorem gammaSeries_zero {p : Params} (h : 1 ≤ p.gammaOrder) : gammaSeries p 0 = p.gammaCoef[0].toInt := by
  obtain ⟨n, hn⟩ := Nat.exists_eq_add_of_le' h
  rw [gammaSeries_eq_sum, hn, Finset.sum_range_succ']
  simp [seriesPower_succ]

/-! ### GAM16 as a number -/

/-- The sample that denormalising gives (R135). -/
theorem gamma16_toNat (p : Params) (x : Half) :
    ((gamma16 p x).toNat : Int) = shrRound (gammaPower p (gammaNormalise x.toNat) * 65535) 27 := by
  obtain ⟨h0, h1⟩ := gammaPower_bounds p (gammaNormalise x.toNat)
  rw [one_eq] at h1
  obtain ⟨hlo, hhi⟩ := nearest_between (lo := 0) (hi := 65535) (by decide)
    (shrRound_nearest (gammaPower p (gammaNormalise x.toNat) * 65535) 27) (by linarith) (by linarith)
  exact channel_toNat hlo hhi

theorem gammaPower_zero (p : Params) : gammaPower p 0 = 0 := by
  rw [gammaPower, rmul27_zero, rmul27_zero]
  rfl

theorem gammaPower_one {p : Params} (h : 1 ≤ p.gammaOrder) (hc : p.gammaCoef[0].toInt = one) :
    gammaPower p one = one := by
  rw [gammaPower, sub_self, gammaSeries_zero h, hc, rmul27_one, rmul27_one]
  rfl

theorem gamma16_zero (p : Params) : gamma16 p 0 = 0 := by
  have hx : gammaNormalise ((0 : Half).toNat : Int) = 0 := rfl
  rw [gamma16, hx, gammaPower_zero]
  rfl

theorem gamma16_max {p : Params} (h : 1 ≤ p.gammaOrder) (hc : p.gammaCoef[0].toInt = one) :
    gamma16 p 65535 = 65535 := by
  have hx : gammaNormalise ((65535 : Half).toNat : Int) = one := rfl
  rw [gamma16, hx, gammaPower_one h hc]
  rfl

/-! ### What each command answers -/

theorem exec_gam8 (s : State) :
    exec .gam8 s = .next { s with y := s.y.set 0 ((gamma8 s.params (sample8 s.a[0])).setWidth 64) } := rfl

theorem exec_gam16 (s : State) :
    exec .gam16 s = .next { s with y := s.y.set 0 ((gamma16 s.params (sample16 s.a[0])).setWidth 64) } := rfl

theorem exec_gamrgb (s : State) :
    exec .gamrgb s = .next { s with y := s.y.set 0 (pack (gammaRgb s.params (unpack s.a[0]))) } := rfl

/-- A packed colour is the sum of its zero-extended channels at their places (R58). -/
theorem pack_eq_ofNat (c : Rgb) :
    pack c = BitVec.ofNat 64 ((c.r.setWidth 64).toNat + (c.g.setWidth 64).toNat * 2 ^ 16 +
      (c.b.setWidth 64).toNat * 2 ^ 32) := by
  have hwidth (h : Half) : (h.setWidth 64).toNat = h.toNat := BitVec.toNat_setWidth_of_le (by decide)
  rw [hwidth, hwidth, hwidth, ← pack_toNat, BitVec.ofNat_toNat, BitVec.setWidth_eq]

/-- GAM16 with one channel of a packed colour, alone in A0, as its sample. -/
theorem exec_gam16_of_channel (s : State) {n : Nat} {c : Half} (hc : c.toNat = n % 2 ^ 16) :
    exec .gam16 { s with a := s.a.set 0 (BitVec.ofNat 64 (n % 2 ^ 16)) } =
      .next { s with
        a := s.a.set 0 (BitVec.ofNat 64 (n % 2 ^ 16))
        y := s.y.set 0 ((gamma16 s.params c).setWidth 64) } := by
  have hsample : sample16 (s.a.set 0 (BitVec.ofNat 64 (n % 2 ^ 16)))[0] = c := by
    apply BitVec.eq_of_toNat_eq
    rw [Vector.getElem_set_self, sample16_toNat, BitVec.toNat_ofNat, hc]
    omega
  rw [exec_gam16, hsample]

/-! ### The obligations -/

/-- Settles O32: each value the engine forms is the one its rule bounds; the clamp keeps the result in 16 bits. -/
theorem gam16DenormalisesTheClampedPower : Obligations.Gam16DenormalisesTheClampedPower := by
  intro s x hx
  rw [← sample16_toNat] at hx
  have hout := gamma16_toNat s.params (sample16 s.a[0])
  rw [← hx] at hout
  refine ⟨gammaNormalise x, _, _, _, gammaPower s.params (gammaNormalise x),
    (gamma16 s.params (sample16 s.a[0])).toNat, ?_, gammaNormalise_bounds x, rmul27_nearest _ _,
    gammaSeries_eq_sum _ _, rmul27_nearest _ _, clamp_eq_max_min _ (by decide), hout ▸ shrRound_nearest _ 27,
    by omega, by omega⟩
  rw [exec_gam16, BitVec.ofInt_natCast, BitVec.ofNat_toNat]

/-- Settles O33: at 0 the factor x^2 is 0; at 65535 u is 0 and the series is its first coefficient. -/
theorem gam16IsExactAtTheEnds : Obligations.Gam16IsExactAtTheEnds := by
  intro s hp
  obtain ⟨-, ⟨horder, -⟩, -⟩ := (Params.wellFormed_iff s.params).mp hp
  refine ⟨fun h0 => ?_, fun hmax hcoef => ?_⟩
  · have hsample : sample16 s.a[0] = 0 := BitVec.eq_of_toNat_eq ((sample16_toNat _).trans h0)
    rw [exec_gam16, hsample, gamma16_zero]
    rfl
  · have hsample : sample16 s.a[0] = 65535 := BitVec.eq_of_toNat_eq ((sample16_toNat _).trans hmax)
    rw [exec_gam16, hsample, gamma16_max horder (hcoef.trans one_eq.symm)]
    rfl

/-- Settles O30: the sample is the table's index. -/
theorem gam8ReadsTheTable : Obligations.Gam8ReadsTheTable := by
  intro s x hx
  have hentry : gamma8 s.params (sample8 s.a[0]) = s.params.gamma8Table[x] := by
    simp only [gamma8, sample8_toNat, hx, Fin.getElem_fin]
  rw [exec_gam8, hentry, BitVec.ofNat_toNat]

/-- Settles O34: each channel is a sample of its own, and packing adds the three results at their places. -/
theorem gamrgbIsGam16PerChannel : Obligations.GamrgbIsGam16PerChannel := by
  intro s
  refine ⟨_, _, _, exec_gam16_of_channel s (unpack_r_toNat s.a[0]),
    exec_gam16_of_channel s (unpack_g_toNat s.a[0]), exec_gam16_of_channel s (unpack_b_toNat s.a[0]), ?_⟩
  rw [exec_gamrgb, pack_eq_ofNat]
  rfl

end Sys2Proof.Machine
end

section
/-! SUPPORT. The colour-space converter (R150 to R163): what each command answers, the ranges of RGB2HSV, the
sextant table of HSV2RGB, and the round trip. HSV2RGB is restated channel by channel, as a shade that depends
on the hue through that channel's distance from it; a rounded hue then moves a shade by far less than a unit. -/

namespace Sys2Proof.Machine

/-! ### What each command answers -/

theorem exec_rgb2hsv (s : State) :
    exec .rgb2hsv s = .next { s with
      y := ((s.y.set 0 (resultWord (rgbToHsv (unpack s.a[0])).h)).set 1
        (resultWord (rgbToHsv (unpack s.a[0])).s)).set 2 (resultWord (rgbToHsv (unpack s.a[0])).v) } := rfl

theorem exec_hsv2rgb (s : State) :
    exec .hsv2rgb s = .next { s with
      y := s.y.set 0 (pack (hsvToRgb (q27Operand s.a[0]) (q27Operand s.a[1]) (q27Operand s.a[2]))) } := rfl

theorem exec_rgb2hsv_y {s t : State} (h : exec .rgb2hsv s = .next t) :
    t.y[0] = resultWord (rgbToHsv (unpack s.a[0])).h ∧ t.y[1] = resultWord (rgbToHsv (unpack s.a[0])).s ∧
      t.y[2] = resultWord (rgbToHsv (unpack s.a[0])).v := by
  obtain rfl := Host.Outcome.next.inj h
  simp

theorem exec_hsv2rgb_result {s t : State} (h : exec .hsv2rgb s = .next t) :
    t.y[0] = pack (hsvToRgb (q27Operand s.a[0]) (q27Operand s.a[1]) (q27Operand s.a[2])) := by
  obtain rfl := Host.Outcome.next.inj h
  exact Vector.getElem_set_self _

/-- A result that fits 32 bits, read back as an operand (R16, R157). -/
theorem q27Operand_resultWord {x : Int} (h0 : -(2 ^ 31) ≤ x) (h1 : x < 2 ^ 31) :
    q27Operand (resultWord x) = x := by
  have hlow : (resultWord x).setWidth 32 = fieldWord x := by
    apply BitVec.eq_of_toNat_eq
    rw [BitVec.toNat_setWidth, resultWord, fieldWord, BitVec.toNat_ofInt, BitVec.toNat_ofInt]
    omega
  rw [q27Operand, hlow, fieldWord_toInt h0 h1]

/-! ### RGB2HSV: value, saturation and complements (R150 to R153) -/

/-- d of R150. -/
def channelSpread (c : Rgb) : Nat := channelMax c - channelMin c

theorem channelMax_eq (c : Rgb) : channelMax c = max (max c.r.toNat c.g.toNat) c.b.toNat := rfl

theorem channelMin_eq (c : Rgb) : channelMin c = min (min c.r.toNat c.g.toNat) c.b.toNat := rfl

theorem channelMax_le (c : Rgb) : channelMax c ≤ 65535 := by
  have hr := c.r.isLt
  have hg := c.g.isLt
  have hb := c.b.isLt
  rw [channelMax_eq]
  omega

theorem channelSpread_cast (c : Rgb) : (channelSpread c : Int) = channelMax c - channelMin c := by
  rw [channelSpread, channelMax_eq, channelMin_eq]
  omega

theorem channelSpread_of_gray {c : Rgb} (hg : c.r.toNat = c.g.toNat) (hb : c.r.toNat = c.b.toNat) :
    channelSpread c = 0 := by
  rw [channelSpread, channelMax_eq, channelMin_eq]
  omega

theorem rgbToHsv_v (c : Rgb) : (rgbToHsv c).v = rdiv ((channelMax c : Int) * one) 65535 := by
  unfold rgbToHsv
  split <;> rfl

theorem rgbToHsv_h_of_gray {c : Rgb} (hc : channelSpread c = 0) : (rgbToHsv c).h = 0 :=
  congrArg Hsv.h (if_pos hc)

theorem rgbToHsv_s_of_gray {c : Rgb} (hc : channelSpread c = 0) : (rgbToHsv c).s = 0 :=
  congrArg Hsv.s (if_pos hc)

theorem rgbToHsv_h_of_coloured {c : Rgb} (hc : channelSpread c ≠ 0) :
    (rgbToHsv c).h = wrapHue (rawHue c (channelMax c) (channelSpread c)) :=
  congrArg Hsv.h (if_neg hc)

theorem rgbToHsv_s_of_coloured {c : Rgb} (hc : channelSpread c ≠ 0) :
    (rgbToHsv c).s = rdiv ((channelSpread c : Int) * one) (channelMax c) :=
  congrArg Hsv.s (if_neg hc)

theorem rgbToHsv_v_nearest (c : Rgb) : Nearest ((channelMax c : Int) * 2 ^ 27) 65535 (rgbToHsv c).v := by
  rw [rgbToHsv_v, ← one_eq]
  exact rdiv_nearest _ (by decide)

/-- A colour that is no gray has a positive maximum, so the divisors of R153 are not 0 (R152). -/
theorem channelMax_pos {c : Rgb} (hc : channelSpread c ≠ 0) : 0 < channelMax c := by
  unfold channelSpread at hc
  omega

theorem rgbToHsv_s_nearest {c : Rgb} (hc : channelSpread c ≠ 0) :
    Nearest ((channelSpread c : Int) * 2 ^ 27) (channelMax c) (rgbToHsv c).s := by
  rw [rgbToHsv_s_of_coloured hc, ← one_eq]
  exact rdiv_nearest _ (Int.natCast_pos.mpr (channelMax_pos hc))

theorem complement_nearest (mx ch : Nat) {d : Nat} (hd : d ≠ 0) :
    Nearest (((mx : Int) - ch) * 2 ^ 27) d (complement mx ch d) := by
  rw [complement, ← one_eq]
  exact rdiv_nearest _ (by omega)

/-- A complement fraction of a channel between the two extremes is in [0, ONE] (R153). -/
theorem complement_bounds {mx ch d : Nat} (hd : d ≠ 0) (hhi : ch ≤ mx) (hlo : mx ≤ ch + d) :
    0 ≤ complement mx ch d ∧ complement mx ch d ≤ one := by
  rw [one_eq]
  exact nearest_between (by omega) (complement_nearest mx ch hd) (by omega) (by omega)

/-- The complement of the maximum channel is 0 (R153). -/
theorem complement_of_max {mx ch d : Nat} (hd : d ≠ 0) (h : ch = mx) : complement mx ch d = 0 :=
  nearest_unique (by omega) (complement_nearest mx ch hd) (by constructor <;> omega)

/-- The complement of the minimum channel is ONE (R153). -/
theorem complement_of_min {mx ch d : Nat} (hd : d ≠ 0) (h : mx = ch + d) : complement mx ch d = one := by
  refine nearest_unique (by omega) (complement_nearest mx ch hd) ?_
  rw [one_eq]
  constructor <;> omega

/-! ### RGB2HSV: the hue (R154, R155) -/

/-- What R154 makes of the three complements of a colour that is no gray: the raw hue counts from the maximum
channel, whose complement is 0, and one of the other two complements is ONE. -/
inductive HueOf (rc gc bc : Int) : Int → Prop where
  | red (hr : rc = 0) (hmin : gc = one ∨ bc = one) : HueOf rc gc bc (bc - gc)
  | green (hg : gc = 0) (hmin : rc = one ∨ bc = one) : HueOf rc gc bc (2 * one + rc - bc)
  | blue (hb : bc = 0) (hmin : rc = one ∨ gc = one) : HueOf rc gc bc (4 * one + gc - rc)

/-- The complement fractions of a colour, in [0, ONE] and with the raw hue of R154. -/
structure HueFractions (rc gc bc hr : Int) : Prop where
  r : 0 ≤ rc ∧ rc ≤ one
  g : 0 ≤ gc ∧ gc ≤ one
  b : 0 ≤ bc ∧ bc ≤ one
  hue : HueOf rc gc bc hr

theorem rawHue_fractions {c : Rgb} (hc : channelSpread c ≠ 0) :
    HueFractions (complement (channelMax c) c.r.toNat (channelSpread c))
      (complement (channelMax c) c.g.toNat (channelSpread c))
      (complement (channelMax c) c.b.toNat (channelSpread c))
      (rawHue c (channelMax c) (channelSpread c)) := by
  have hd := channelSpread_cast c
  have hmx := channelMax_eq c
  have hmn := channelMin_eq c
  have hmin {ch ch' : Nat} (h : channelMin c = ch ∨ channelMin c = ch') :
      complement (channelMax c) ch (channelSpread c) = one ∨
        complement (channelMax c) ch' (channelSpread c) = one :=
    h.imp (fun h => complement_of_min hc (by omega)) (fun h => complement_of_min hc (by omega))
  refine ⟨complement_bounds hc (by omega) (by omega), complement_bounds hc (by omega) (by omega),
    complement_bounds hc (by omega) (by omega), ?_⟩
  unfold rawHue
  split
  case isTrue hr => exact .red (complement_of_max hc hr) (hmin (by omega))
  case isFalse hr =>
    split
    case isTrue hg => exact .green (complement_of_max hc hg) (hmin (by omega))
    case isFalse hg => exact .blue (complement_of_max hc (by omega)) (hmin (by omega))

theorem HueFractions.range {rc gc bc hr : Int} (h : HueFractions rc gc bc hr) : -one ≤ hr ∧ hr ≤ 5 * one := by
  obtain ⟨⟨r0, r1⟩, ⟨g0, g1⟩, ⟨b0, b1⟩, hhue⟩ := h
  cases hhue <;> constructor <;> linarith [one_eq]

/-- One wrap brings the hue into [0, ONE) (R155). -/
theorem wrapHue_bounds {hr : Int} (h0 : -one ≤ hr) (h1 : hr ≤ 5 * one) : 0 ≤ wrapHue hr ∧ wrapHue hr < one := by
  obtain ⟨hlo, hhi⟩ := rdiv_nearest hr (b := 6) (by decide)
  unfold wrapHue
  unfold one at *
  split <;> omega

/-- R156: the ranges of RGB2HSV. -/
theorem rgbToHsv_bounds (c : Rgb) :
    (0 ≤ (rgbToHsv c).h ∧ (rgbToHsv c).h < 2 ^ 27) ∧ (0 ≤ (rgbToHsv c).s ∧ (rgbToHsv c).s ≤ 2 ^ 27) ∧
      (0 ≤ (rgbToHsv c).v ∧ (rgbToHsv c).v ≤ 2 ^ 27) := by
  have hmax := channelMax_le c
  have hv := nearest_between (lo := 0) (hi := 2 ^ 27) (by decide) (rgbToHsv_v_nearest c) (by omega) (by omega)
  by_cases hc : channelSpread c = 0
  · rw [rgbToHsv_h_of_gray hc, rgbToHsv_s_of_gray hc]
    exact ⟨by decide, by decide, hv⟩
  · obtain ⟨hlo, hhi⟩ := (rawHue_fractions hc).range
    have hh := wrapHue_bounds hlo hhi
    rw [← rgbToHsv_h_of_coloured hc, one_eq] at hh
    have hle : channelSpread c ≤ channelMax c := Nat.sub_le _ _
    exact ⟨hh, nearest_between (by omega) (rgbToHsv_s_nearest hc) (by omega) (by omega), hv⟩

/-! ### HSV2RGB: the sextant table (R157 to R162) -/

/-- HSV2RGB's hue arithmetic sees a whole turn as six sextants (R160). -/
theorem sextantIndex_add_turns (h k : Int) : sextantIndex (h + k * one) = sextantIndex h + 6 * k := by
  unfold sextantIndex one
  omega

theorem hsvToRgb_add_turns (h k s v : Int) : hsvToRgb (h + k * one) s v = hsvToRgb h s v := by
  have hf : sextantFraction (h + k * one) = sextantFraction h := by
    rw [sextantFraction, sextantIndex_add_turns, sextantFraction]
    ring
  have hsx : sextant (h + k * one) = sextant h := by
    rw [sextant, sextantIndex_add_turns, Int.add_mul_emod_self_left, sextant]
  rw [hsvToRgb, hf, hsx, hsvToRgb]

/-- Three channel numbers as a colour. -/
def rgbOf (t : Int × Int × Int) : Rgb := { r := channel t.1, g := channel t.2.1, b := channel t.2.2 }

/-- R159 and the table of R162, with a sextant index of either sign. -/
def sextantTable (s i V P Q T : Int) : Int × Int × Int :=
  if s = 0 then (V, V, V)
  else if i % 6 = 0 then (V, T, P)
  else if i % 6 = 1 then (Q, V, P)
  else if i % 6 = 2 then (P, V, T)
  else if i % 6 = 3 then (P, Q, V)
  else if i % 6 = 4 then (T, P, V)
  else (V, P, Q)

theorem hsvToRgb_eq_table (h s v : Int) :
    hsvToRgb h s v = rgbOf (sextantTable s (sextantIndex h) (scaledValue v) (channelP (scaledValue v) s)
      (channelQ (scaledValue v) s (sextantFraction h)) (channelT (scaledValue v) s (sextantFraction h))) := by
  have hsx : (sextant h : Int) = sextantIndex h % 6 := by
    unfold sextant
    omega
  have hlt := sextant_lt h
  unfold hsvToRgb sextantTable
  rw [← hsx]
  split
  · rfl
  · interval_cases sextant h <;> rfl

/-- Every entry of the table is one of the four channels. -/
theorem sextantTable_forall {p : Int → Prop} (s i : Int) {V P Q T : Int} (hV : p V) (hP : p P) (hQ : p Q)
    (hT : p T) : p (sextantTable s i V P Q T).1 ∧ p (sextantTable s i V P Q T).2.1 ∧
      p (sextantTable s i V P Q T).2.2 := by
  unfold sextantTable
  split_ifs <;> exact ⟨‹_›, ‹_›, ‹_›⟩

theorem rmul27_nearest_one (a b : Int) : Nearest (a * b) one (rmul27 a b) :=
  one_eq ▸ rmul27_nearest a b

/-- A colour of three 16-bit numbers, packed (R58). -/
theorem pack_rgbOf {t : Int × Int × Int} (hr : 0 ≤ t.1 ∧ t.1 ≤ 65535) (hg : 0 ≤ t.2.1 ∧ t.2.1 ≤ 65535)
    (hb : 0 ≤ t.2.2 ∧ t.2.2 ≤ 65535) :
    pack (rgbOf t) = BitVec.ofInt 64 (t.1 + t.2.1 * 2 ^ 16 + t.2.2 * 2 ^ 32) := by
  apply BitVec.eq_of_toNat_eq
  have hr' := channel_toNat hr.1 hr.2
  have hg' := channel_toNat hg.1 hg.2
  have hb' := channel_toNat hb.1 hb.2
  rw [pack_toNat, BitVec.toNat_ofInt]
  simp only [rgbOf]
  omega

/-- HSV2RGB's result is its table entry packed, as every entry is a clamped channel (R161, R162). -/
theorem pack_hsvToRgb {h s v : Int} {t : Int × Int × Int}
    (ht : t = sextantTable s (sextantIndex h) (scaledValue v) (channelP (scaledValue v) s)
      (channelQ (scaledValue v) s (sextantFraction h)) (channelT (scaledValue v) s (sextantFraction h))) :
    pack (hsvToRgb h s v) = BitVec.ofInt 64 (t.1 + t.2.1 * 2 ^ 16 + t.2.2 * 2 ^ 32) := by
  obtain ⟨hr, hg, hb⟩ := sextantTable_forall (p := fun x => 0 ≤ x ∧ x ≤ 65535) s (sextantIndex h)
    (scaledValue_bounds v) (scaledChannel_bounds _ _) (scaledChannel_bounds _ _) (scaledChannel_bounds _ _)
  rw [hsvToRgb_eq_table, ← ht]
  exact pack_rgbOf (ht ▸ hr) (ht ▸ hg) (ht ▸ hb)

/-! ### HSV2RGB channel by channel -/

/-- V(1 - s*x), the common form of P, Q and T (R161). -/
def shade (V s x : Int) : Int := scaledChannel V (one - shrRound (s * x) 27)

theorem channelQ_eq_shade (V s f : Int) : channelQ V s f = shade V s f := rfl

theorem channelT_eq_shade (V s f : Int) : channelT V s f = shade V s (one - f) := rfl

theorem channelP_eq_shade (V s : Int) : channelP V s = shade V s one := by
  have hs : shrRound (s * one) 27 = s := rmul27_one s
  rw [shade, hs, channelP]

theorem scaledChannel_one {V : Int} (h0 : 0 ≤ V) (h1 : V ≤ 65535) : scaledChannel V one = V := by
  have hV : shrRound (V * one) 27 = V := rmul27_one V
  rw [scaledChannel, hV]
  exact clamp_of_mem h0 h1

theorem shade_zero {V : Int} (s : Int) (h0 : 0 ≤ V) (h1 : V ≤ 65535) : shade V s 0 = V := by
  have hs : shrRound (s * 0) 27 = 0 := rmul27_zero s
  rw [shade, hs, sub_zero, scaledChannel_one h0 h1]

theorem shade_zero_saturation {V : Int} (x : Int) (h0 : 0 ≤ V) (h1 : V ≤ 65535) : shade V 0 x = V := by
  have hs : shrRound (0 * x) 27 = 0 := zero_rmul27 x
  rw [shade, hs, sub_zero, scaledChannel_one h0 h1]

/-- The distance of a hue, as a position x = 6h in [0, 6 ONE), from the two sextants around `centre`, capped at
ONE. -/
def hueDistance (centre x : Int) : Int := clamp (|x - centre| - one) 0 one

/-- The complement fraction of red at a position of the hue circle. Red lies where the circle is cut, so it is
given by cyan, its opposite at 3 ONE. -/
def redAt (x : Int) : Int := one - hueDistance (3 * one) x

/-- The complement fraction of green, at 2 ONE. -/
def greenAt (x : Int) : Int := hueDistance (2 * one) x

/-- The complement fraction of blue, at 4 ONE. -/
def blueAt (x : Int) : Int := hueDistance (4 * one) x

theorem hueDistance_bounds (centre x : Int) : 0 ≤ hueDistance centre x ∧ hueDistance centre x ≤ one :=
  clamp_bounds _ (by decide)

theorem hueDistance_eq (centre x : Int) :
    hueDistance centre x = max 0 (min (max (x - centre) (centre - x) - one) one) := by
  rw [hueDistance, clamp_eq_max_min _ (by decide), abs_eq_max_neg, neg_sub]

theorem redAt_bounds (x : Int) : 0 ≤ redAt x ∧ redAt x ≤ one := by
  obtain ⟨h0, h1⟩ := hueDistance_bounds (3 * one) x
  exact ⟨sub_nonneg.mpr h1, sub_le_self one h0⟩

/-- A function of the entries goes through the table. -/
theorem sextantTable_map (F : Int → Int) (s i V P Q T : Int) :
    sextantTable s i (F V) (F P) (F Q) (F T) =
      (F (sextantTable s i V P Q T).1, F (sextantTable s i V P Q T).2.1, F (sextantTable s i V P Q T).2.2) := by
  unfold sextantTable
  split_ifs <;> rfl

/-- The table of R162 with the fractions 0, 1, f and 1 - f for V, P, Q and T: the complement of each channel. -/
theorem sextantTable_fractions {s i f : Int} (hs : s ≠ 0) (hi0 : 0 ≤ i) (hi1 : i < 6) (hf0 : 0 ≤ f)
    (hf1 : f < one) : sextantTable s i 0 one f (one - f) =
      (redAt (i * one + f), greenAt (i * one + f), blueAt (i * one + f)) := by
  simp only [redAt, greenAt, blueAt, hueDistance_eq]
  unfold one at *
  rw [sextantTable, if_neg hs]
  split_ifs <;> refine Prod.ext ?_ (Prod.ext ?_ ?_) <;> dsimp only <;> omega

/-- HSV2RGB shades each channel by its own complement fraction, for every hue in [0, ONE); s = 0 included. -/
theorem hsvToRgb_eq_shades {h : Int} (s v : Int) (h0 : 0 ≤ h) (h1 : h < one) :
    hsvToRgb h s v = rgbOf (shade (scaledValue v) s (redAt (6 * h)), shade (scaledValue v) s (greenAt (6 * h)),
      shade (scaledValue v) s (blueAt (6 * h))) := by
  obtain ⟨hV0, hV1⟩ := scaledValue_bounds v
  by_cases hs : s = 0
  · rw [hs, shade_zero_saturation _ hV0 hV1, shade_zero_saturation _ hV0 hV1, shade_zero_saturation _ hV0 hV1]
    rfl
  · obtain ⟨hsplit, hf0, hf1⟩ := sextant_split h
    have hi : 0 ≤ sextantIndex h ∧ sextantIndex h < 6 := by
      unfold sextantIndex
      unfold one at *
      omega
    have htable := sextantTable_map (shade (scaledValue v) s) s (sextantIndex h) 0 one (sextantFraction h)
      (one - sextantFraction h)
    rw [sextantTable_fractions hs hi.1 hi.2 hf0 hf1, ← hsplit, shade_zero s hV0 hV1] at htable
    rw [hsvToRgb_eq_table, channelP_eq_shade, channelQ_eq_shade, channelT_eq_shade, htable]

/-! ### The round trip (R163) -/

/-- Dividing the hue by 6 and multiplying it again moves each complement by at most 3: the position moves by at
most 3, up to the one turn of the wrap, and no complement changes faster than the position. -/
theorem HueFractions.near {rc gc bc hr : Int} (h : HueFractions rc gc bc hr) :
    |redAt (6 * wrapHue hr) - rc| ≤ 3 ∧ |greenAt (6 * wrapHue hr) - gc| ≤ 3 ∧
      |blueAt (6 * wrapHue hr) - bc| ≤ 3 := by
  have hwrap : |6 * wrapHue hr - hr| ≤ 3 ∧ 0 ≤ wrapHue hr ∨
      |6 * wrapHue hr - hr - 6 * one| ≤ 3 ∧ wrapHue hr < one := by
    obtain ⟨hlo, hhi⟩ := rdiv_nearest hr (b := 6) (by decide)
    simp only [abs_le]
    unfold wrapHue
    split <;> omega
  obtain ⟨hrc, hgc, hbc, hhue⟩ := h
  simp only [abs_le, redAt, greenAt, blueAt, hueDistance_eq] at hwrap ⊢
  cases hhue
  all_goals
    unfold one at *
    exact ⟨by omega, by omega, by omega⟩

/-- The value scales back to the maximum channel exactly (R151, R158). -/
theorem scaledValue_of_nearest {mx v : Int} (h0 : 0 ≤ mx) (h1 : mx ≤ 65535)
    (hv : Nearest (mx * 2 ^ 27) 65535 v) : scaledValue v = mx := by
  have hround : shrRound (v * 65535) 27 = mx := by
    refine nearest_unique (by decide) (shrRound_nearest _ 27) ?_
    unfold Nearest at *
    omega
  rw [scaledValue, hround]
  exact clamp_of_mem h0 h1

/-- With all the roundings of R153 and R155 on the way, a channel's shade rounds back to the channel: the errors
add up to less than half a unit. -/
theorem shade_of_nearest {mx X d s c x : Int} (hd : 0 < d) (hdm : d ≤ mx) (hmx : mx ≤ 65535) (hX0 : 0 ≤ X)
    (hX1 : X ≤ mx) (hs : Nearest (d * 2 ^ 27) mx s) (hc : Nearest ((mx - X) * 2 ^ 27) d c)
    (hx0 : 0 ≤ x) (hx1 : x ≤ one) (hlo : c - 3 ≤ x) (hhi : x ≤ c + 3) : shade mx s x = X := by
  obtain ⟨hs1, hs2⟩ := hs
  obtain ⟨hc1, hc2⟩ := hc
  obtain ⟨hq1, hq2⟩ := shrRound_nearest (s * x) 27
  have hround : shrRound (mx * (one - shrRound (s * x) 27)) 27 = X := by
    refine nearest_unique (by decide) (shrRound_nearest _ 27) ?_
    generalize shrRound (s * x) 27 = q at *
    rw [one_eq] at *
    -- Each rounding's error, times the factors it is multiplied by on the way to V * (ONE - s*x).
    have hshift1 := mul_le_mul_of_nonneg_left hq1 (hd.le.trans hdm)
    have hshift2 := mul_le_mul_of_nonneg_left hq2.le (hd.le.trans hdm)
    have hsat1 := mul_le_mul_of_nonneg_right hs1 hx0
    have hsat2 := mul_le_mul_of_nonneg_right hs2.le hx0
    have hhue1 := mul_le_mul_of_nonneg_left hlo hd.le
    have hhue2 := mul_le_mul_of_nonneg_left hhi hd.le
    have hmxx := mul_le_mul_of_nonneg_left hx1 (hd.le.trans hdm)
    constructor <;> linarith
  rw [shade, scaledChannel, hround]
  exact clamp_of_mem hX0 (by omega)

theorem channel_natCast_toNat (x : Half) : channel (x.toNat : Int) = x := by
  rw [channel, BitVec.ofInt_natCast, BitVec.ofNat_toNat, BitVec.setWidth_eq]

theorem rgbOf_channels (c : Rgb) : rgbOf (c.r.toNat, c.g.toNat, c.b.toNat) = c := by
  simp only [rgbOf, channel_natCast_toNat]

/-- A channel between the extremes of a colour that is no gray, shaded with a complement that is at most 3 off. -/
theorem shade_complement {c : Rgb} (hc : channelSpread c ≠ 0) {ch : Nat} {x : Int} (hch : ch ≤ channelMax c)
    (hx : 0 ≤ x ∧ x ≤ one)
    (hnear : |x - complement (channelMax c) ch (channelSpread c)| ≤ 3) :
    shade (channelMax c) (rgbToHsv c).s x = ch := by
  have hmax := channelMax_le c
  have hspread := channelSpread_cast c
  obtain ⟨hnear1, hnear2⟩ := abs_le.mp hnear
  exact shade_of_nearest (by omega) (by omega) (by omega) (by omega) (by omega) (rgbToHsv_s_nearest hc)
    (complement_nearest _ _ hc) hx.1 hx.2 (by omega) (by omega)

/-- A gray has s = 0, so each channel is the value; a channel of any other colour is its own shade. -/
theorem shades_of_rgbToHsv (c : Rgb) :
    shade (channelMax c) (rgbToHsv c).s (redAt (6 * (rgbToHsv c).h)) = c.r.toNat ∧
      shade (channelMax c) (rgbToHsv c).s (greenAt (6 * (rgbToHsv c).h)) = c.g.toNat ∧
      shade (channelMax c) (rgbToHsv c).s (blueAt (6 * (rgbToHsv c).h)) = c.b.toNat := by
  have hmax := channelMax_le c
  have hmx := channelMax_eq c
  have hmn := channelMin_eq c
  by_cases hc : channelSpread c = 0
  · have hspread := channelSpread_cast c
    rw [rgbToHsv_s_of_gray hc]
    simp only [shade_zero_saturation _ (Int.natCast_nonneg (channelMax c)) (by omega)]
    omega
  · obtain ⟨hr, hg, hb⟩ := (rawHue_fractions hc).near
    rw [← rgbToHsv_h_of_coloured hc] at hr hg hb
    exact ⟨shade_complement hc (by omega) (redAt_bounds _) hr,
      shade_complement hc (by omega) (hueDistance_bounds _ _) hg,
      shade_complement hc (by omega) (hueDistance_bounds _ _) hb⟩

/-- The round trip gives back the very colour, with no error at all. -/
theorem hsvToRgb_rgbToHsv (c : Rgb) : hsvToRgb (rgbToHsv c).h (rgbToHsv c).s (rgbToHsv c).v = c := by
  have hmax := channelMax_le c
  obtain ⟨⟨h0, h1⟩, -⟩ := rgbToHsv_bounds c
  obtain ⟨hr, hg, hb⟩ := shades_of_rgbToHsv c
  rw [hsvToRgb_eq_shades _ _ h0 (one_eq ▸ h1),
    scaledValue_of_nearest (by omega) (by omega) (rgbToHsv_v_nearest c), hr, hg, hb, rgbOf_channels]

/-- The three results of RGB2HSV, read back as the operands of HSV2RGB, are the very numbers. -/
theorem exec_rgb2hsv_operands {s t : State} (h : exec .rgb2hsv s = .next t) :
    q27Operand t.y[0] = (rgbToHsv (unpack s.a[0])).h ∧ q27Operand t.y[1] = (rgbToHsv (unpack s.a[0])).s ∧
      q27Operand t.y[2] = (rgbToHsv (unpack s.a[0])).v := by
  obtain ⟨hy0, hy1, hy2⟩ := exec_rgb2hsv_y h
  obtain ⟨hh, hs, hv⟩ := rgbToHsv_bounds (unpack s.a[0])
  rw [hy0, hy1, hy2]
  exact ⟨q27Operand_resultWord (by omega) (by omega), q27Operand_resultWord (by omega) (by omega),
    q27Operand_resultWord (by omega) (by omega)⟩

/-- Words that unpack to one colour agree in each channel's bits (R58). -/
theorem channels_eq_of_unpack_eq {v w : DWord} (h : unpack v = unpack w) (k : Fin 3) :
    v.toNat / 2 ^ (16 * k.val) % 2 ^ 16 = w.toNat / 2 ^ (16 * k.val) % 2 ^ 16 :=
  match k with
  | 0 => by simpa [unpack_r_toNat] using congrArg (fun c => c.r.toNat) h
  | 1 => by simpa [unpack_g_toNat] using congrArg (fun c => c.g.toNat) h
  | 2 => by simpa [unpack_b_toNat] using congrArg (fun c => c.b.toNat) h

/-! ### The obligations -/

/-- Settles O35: each value the engine forms is the one its rule bounds. -/
theorem rgb2hsvFollowsTheFormula : Obligations.Rgb2hsvFollowsTheFormula := by
  intro s r g b mx mn d hr hg hb hmx hmn hd
  rw [← unpack_r_toNat] at hr
  rw [← unpack_g_toNat] at hg
  rw [← unpack_b_toNat] at hb
  generalize hcolour : unpack s.a[0] = c at hr hg hb
  have hmax : mx = channelMax c := by
    rw [hmx, hr, hg, hb, ← Nat.cast_max, ← Nat.cast_max]
    rfl
  have hspread : d = channelSpread c := by
    rw [channelSpread_cast, hd, hmax, hmn, hr, hg, hb, ← Nat.cast_min, ← Nat.cast_min]
    rfl
  refine ⟨(rgbToHsv c).h, (rgbToHsv c).s, (rgbToHsv c).v, hcolour ▸ exec_rgb2hsv s,
    hmax ▸ rgbToHsv_v_nearest c, fun hgray => ?_, fun hcoloured => ?_⟩
  · have hc : channelSpread c = 0 := by omega
    exact ⟨rgbToHsv_h_of_gray hc, rgbToHsv_s_of_gray hc⟩
  · have hc : channelSpread c ≠ 0 := by omega
    rw [hmax, hspread, hr, hg, hb]
    refine ⟨rgbToHsv_s_nearest hc, _, _, _, rawHue c (channelMax c) (channelSpread c), _,
      complement_nearest _ _ hc, complement_nearest _ _ hc, complement_nearest _ _ hc, ?_,
      rdiv_nearest _ (by decide), ?_⟩
    · simp only [rawHue, one_eq, Nat.cast_inj]
    · rw [rgbToHsv_h_of_coloured hc, wrapHue, one_eq]

/-- Settles O36: the numbers are in range, and a result register holds such a number as it is. -/
theorem rgb2hsvStaysInRange : Obligations.Rgb2hsvStaysInRange := by
  intro s t h
  obtain ⟨hy0, hy1, hy2⟩ := exec_rgb2hsv_y h
  obtain ⟨hh, hs, hv⟩ := rgbToHsv_bounds (unpack s.a[0])
  refine ⟨?_, ?_, ?_, fun hrg hrb => ?_⟩
  · rw [hy0, resultWord_toInt (by omega) (by omega)]
    exact hh
  · rw [hy1, resultWord_toInt (by omega) (by omega)]
    exact hs
  · rw [hy2, resultWord_toInt (by omega) (by omega)]
    exact hv
  · rw [← unpack_r_toNat, ← unpack_g_toNat] at hrg
    rw [← unpack_r_toNat, ← unpack_b_toNat] at hrb
    have hgray := channelSpread_of_gray hrg hrb
    rw [hy0, hy1, rgbToHsv_h_of_gray hgray, rgbToHsv_s_of_gray hgray]
    exact ⟨rfl, rfl⟩

/-- Settles O37: V, P, Q and T are clamped roundings, and the result is the table's entry packed. -/
theorem hsv2rgbFollowsTheSextants : Obligations.Hsv2rgbFollowsTheSextants := by
  intro s h sat v hh hsat hv
  have hexec : exec .hsv2rgb s = .next { s with y := s.y.set 0 (pack (hsvToRgb h sat v)) } := by
    rw [hh, hsat, hv]
    rfl
  obtain ⟨⟨R, G, B⟩, htable⟩ : ∃ t, t = sextantTable sat (sextantIndex h) (scaledValue v)
      (channelP (scaledValue v) sat) (channelQ (scaledValue v) sat (sextantFraction h))
      (channelT (scaledValue v) sat (sextantFraction h)) := ⟨_, rfl⟩
  rw [pack_hsvToRgb htable] at hexec
  rw [← one_eq]
  exact ⟨sextantIndex h, sextantFraction h, _, scaledValue v, _, _, _, channelP (scaledValue v) sat, _,
    channelQ (scaledValue v) sat (sextantFraction h), _, channelT (scaledValue v) sat (sextantFraction h),
    R, G, B, hexec, sextant_split h, ⟨rmul27_nearest_one _ _, clamp16_eq _⟩, rmul27_nearest_one _ _,
    rmul27_nearest_one _ _, ⟨rmul27_nearest_one _ _, clamp16_eq _⟩, ⟨rmul27_nearest_one _ _, clamp16_eq _⟩,
    ⟨rmul27_nearest_one _ _, clamp16_eq _⟩, htable⟩

/-- Settles O38: a whole number of turns is no change of the sextant or of the fraction. -/
theorem hsv2rgbWrapsTheHue : Obligations.Hsv2rgbWrapsTheHue := by
  intro s s' t t' k hh hs hv ht ht'
  have hhue : q27Operand s'.a[0] = q27Operand s.a[0] + k * one := hh
  rw [exec_hsv2rgb_result ht, exec_hsv2rgb_result ht', hhue, hsvToRgb_add_turns]
  simp only [q27Operand, hs, hv]

/-- Settles O39: the operands are the numbers RGB2HSV wrote, and the colour comes back with no error. -/
theorem colourRoundTripWithinTwo : Obligations.ColourRoundTripWithinTwo := by
  intro s t u ht hu k
  obtain ⟨hh, hs, hv⟩ := exec_rgb2hsv_operands ht
  have hcolour : unpack u.y[0] = unpack s.a[0] := by
    rw [exec_hsv2rgb_result hu, unpack_pack]
    change hsvToRgb (q27Operand t.y[0]) (q27Operand t.y[1]) (q27Operand t.y[2]) = _
    rw [hh, hs, hv, hsvToRgb_rgbToHsv]
  rw [channels_eq_of_unpack_eq hcolour k]
  exact ⟨Nat.le_add_right _ 2, Nat.le_add_right _ 2⟩

end Sys2Proof.Machine
end

section
/-! SUPPORT. The calibration and boost engine (R180 to R185): what CALBOOST answers, the ranges of the inverse-gain
terms, and the bound of R185 (c), by which the clamp of R184 never changes a value. -/

namespace Sys2Proof.Machine

/-! ### The inverse-gain terms (R181) -/

/-- A channel term is in [0, 65535 * 255] (R181). -/
theorem channelGain_bounds (ch : Half) (cal : Byte) :
    0 ≤ (ch.toNat : Int) * cal.toNat ∧ (ch.toNat : Int) * cal.toNat ≤ 65535 * 255 := by
  have hch := ch.isLt
  have hcal := cal.isLt
  exact ⟨by positivity, mul_le_mul (by omega) (by omega) (by omega) (by omega)⟩

/-- The three channel terms, without the lamp term. -/
def InverseGains.channels (ig : InverseGains) : List Int := [ig.r, ig.g, ig.b]

theorem operandGains_channels_bounds (s : State) :
    ∀ x ∈ (operandGains s).channels, 0 ≤ x ∧ x ≤ 65535 * 255 := by
  simp only [InverseGains.channels, List.forall_mem_cons]
  exact ⟨channelGain_bounds _ _, channelGain_bounds _ _, channelGain_bounds _ _, nofun⟩

theorem channels_le_gainMax (ig : InverseGains) : ∀ x ∈ ig.channels, x ≤ gainMax ig := by
  simp only [InverseGains.channels, List.forall_mem_cons, gainMax]
  exact ⟨by omega, by omega, by omega, nofun⟩

/-! ### The boost factor and a boosted channel (R182 to R184) -/

theorem boostFactor_of_gainMax_zero (c : Rgb) {ig : InverseGains} (hm : gainMax ig = 0) : boostFactor c ig = 0 :=
  if_pos hm

theorem boostFactor_nearest (c : Rgb) {ig : InverseGains} (hm : 0 < gainMax ig) :
    Nearest ((channelMax c : Int) * 2 ^ 32) (gainMax ig) (boostFactor c ig) := by
  rw [boostFactor, if_neg hm.ne']
  exact rdiv_nearest _ hm

/-- Rounding the boost factor up adds at most half a term to the product (R185). -/
theorem two_mul_boosted_le {num m bf x : Int} (hnum : 0 ≤ num) (hx0 : 0 ≤ x) (hxm : x ≤ m)
    (hbf : Nearest num m bf) : 2 * (x * bf) ≤ 2 * num + x := by
  rcases le_or_gt bf 0 with hbf0 | hbf1
  · have hprod := mul_nonpos_of_nonneg_of_nonpos hx0 hbf0
    omega
  · calc 2 * (x * bf) = (2 * bf - 1) * x + x := by ring
      _ ≤ (2 * bf - 1) * m + x := by gcongr; omega
      _ ≤ 2 * num + x := Int.add_le_add_right hbf.1 x

/-- The bound of R185 (c): half a term is too small to round the product past the largest channel. -/
theorem boosted_between {mx m bf x : Int} (hmx : 0 ≤ mx) (hx0 : 0 ≤ x) (hx : x ≤ 65535 * 255) (hxm : x ≤ m)
    (hm : 0 < m) (hbf : Nearest (mx * 2 ^ 32) m bf) :
    0 ≤ shrRound (x * bf) 32 ∧ shrRound (x * bf) 32 ≤ mx := by
  have hbf0 : 0 ≤ bf :=
    (nearest_between hm hbf (by omega) (le_mul_of_one_le_right (by omega) (Int.add_one_le_of_lt hm))).1
  have hprod0 := mul_nonneg hx0 hbf0
  have hprod := two_mul_boosted_le (by omega) hx0 hxm hbf
  obtain ⟨hr1, hr2⟩ := shrRound_nearest (x * bf) 32
  omega

/-- Every boosted channel is at most the largest input channel, before the clamp; with m = 0 it is 0 (R183). -/
theorem boosted_bounds (s : State) : ∀ x ∈ (operandGains s).channels,
    0 ≤ shrRound (x * boostFactor (unpack s.a[0]) (operandGains s)) 32 ∧
      shrRound (x * boostFactor (unpack s.a[0]) (operandGains s)) 32 ≤ channelMax (unpack s.a[0]) := by
  intro x hx
  obtain ⟨hx0, hx1⟩ := operandGains_channels_bounds s x hx
  have hxm := channels_le_gainMax _ x hx
  rcases (hx0.trans hxm).eq_or_lt with hm | hm
  · rw [boostFactor_of_gainMax_zero _ hm.symm, mul_zero]
    exact ⟨le_refl 0, Int.natCast_nonneg _⟩
  · exact boosted_between (Int.natCast_nonneg _) hx0 hx1 hxm hm (boostFactor_nearest _ hm)

/-- A colour whose boosted channels need no clamp is packed as it is (R58, R184). -/
theorem pack_boostRgb {ig : InverseGains} {bf : Int}
    (h : ∀ x ∈ ig.channels, 0 ≤ shrRound (x * bf) 32 ∧ shrRound (x * bf) 32 ≤ 65535) :
    pack (boostRgb ig bf) = BitVec.ofInt 64 (shrRound (ig.r * bf) 32 + shrRound (ig.g * bf) 32 * 2 ^ 16 +
      shrRound (ig.b * bf) 32 * 2 ^ 32) := by
  simp only [InverseGains.channels, List.forall_mem_cons] at h
  obtain ⟨hr, hg, hb, -⟩ := h
  have hcolour : boostRgb ig bf =
      rgbOf (shrRound (ig.r * bf) 32, shrRound (ig.g * bf) 32, shrRound (ig.b * bf) 32) := by
    simp only [boostRgb, boostChannel, rgbOf, clamp16, clamp_of_mem hr.1 hr.2, clamp_of_mem hg.1 hg.2,
      clamp_of_mem hb.1 hb.2]
  rw [hcolour, pack_rgbOf hr hg hb]

/-! ### The obligation -/

theorem exec_calboost (s : State) :
    exec .calboost s = .next { s with
      y := (s.y.set 0 (BitVec.ofInt 64 (boostFactor (unpack s.a[0]) (operandGains s)))).set 1
        (pack (boostRgb (operandGains s) (boostFactor (unpack s.a[0]) (operandGains s)))) } := rfl

/-- Settles O40: each value the engine forms is the one its rule bounds, and the clamp of R184 never acts. -/
theorem calboostFollowsTheFormula : Obligations.CalboostFollowsTheFormula := by
  intro s r g b igr igg igb mx hr hg hb higr higg higb hmx
  rw [← unpack_r_toNat] at hr
  rw [← unpack_g_toNat] at hg
  rw [← unpack_b_toNat] at hb
  rw [← calR_toNat, hr] at higr
  rw [← calG_toNat, hg] at higg
  rw [← calB_toNat, hb] at higb
  have hmax : mx = channelMax (unpack s.a[0]) := by
    rw [hmx, hr, hg, hb, ← Nat.cast_max, ← Nat.cast_max, ← channelMax_eq]
  have hbounds := boosted_bounds s
  have hpack := pack_boostRgb fun x hx =>
    ⟨(hbounds x hx).1, (hbounds x hx).2.trans (Int.ofNat_le.mpr (channelMax_le _))⟩
  have hexec := exec_calboost s
  rw [hpack] at hexec
  simp only [InverseGains.channels, List.forall_mem_cons] at hbounds
  obtain ⟨hboundR, hboundG, hboundB, -⟩ := hbounds
  rw [higr, higg, higb, hmax]
  refine ⟨(operandGains s).lamp, gainMax (operandGains s), _, _, _, _, hexec, shrRound_nearest _ 16, rfl,
    boostFactor_of_gainMax_zero _, fun hm => boostFactor_nearest _ ?_, shrRound_nearest _ 32,
    shrRound_nearest _ 32, shrRound_nearest _ 32, hboundR, hboundG, hboundB⟩
  exact (gainMax_nonneg _ _ _ _ _).lt_of_ne' hm

end Sys2Proof.Machine
end

section
/-! SUPPORT. The commands that arm the effects (R200 to R204): what CCRESET, CCRECALC, BRRESET and BRPASS answer
for a valid zone, with their period and slope as numbers, and the zone check that comes before them. -/

namespace Sys2Proof.Machine

/-! ### Periods, slopes and indices as numbers -/

theorem periodOperand_eq_ofNat (v : DWord) : periodOperand v = BitVec.ofNat 32 (v.toNat % 2 ^ 32) := by
  rw [← periodOperand_toNat, BitVec.ofNat_toNat, BitVec.setWidth_eq]

theorem periodOperand_eq_zero_iff (v : DWord) : periodOperand v = 0 ↔ v.toNat % 2 ^ 32 = 0 := by
  rw [← periodOperand_toNat, ← BitVec.toNat_inj]; rfl

theorem fieldWord_natCast (n : Nat) : fieldWord n = BitVec.ofNat 32 n := BitVec.ofInt_natCast 32 n

theorem one_ediv_natCast (n : Nat) : one / (n : Int) = ((2 ^ 27 / n : Nat) : Int) := by
  rw [Int.natCast_ediv]; rfl

theorem slopeOf_eq_ofNat (n : Nat) : slopeOf n = BitVec.ofNat 32 (2 ^ 27 / n) := by
  rw [slopeOf, one_ediv_natCast, fieldWord_natCast]

theorem rampPeriod_operand (v : DWord) (zp : ZoneParams) :
    rampPeriod (periodOperand v) zp = v.toNat % 2 ^ 32 / (2 + zp.brTopEn.toNat + zp.brBotEn.toNat) := by
  rw [rampPeriod, periodOperand_toNat, segmentCount]

/-- The hue index is the floor of the wrapped hue times the period (R202). -/
theorem hueIndex_eq {outH p : Word} {hw turns : Int} (hout : outH.toInt = turns * 2 ^ 27 + hw) (h0 : 0 ≤ hw)
    (h1 : hw < 2 ^ 27) : hueIndex outH p = fieldWord (hw * p.toNat / 2 ^ 27) := by
  have hmod : outH.toInt % 2 ^ 27 = hw := by omega
  rw [hueIndex, one_eq, hmod]

/-- A part of a period, rounded down, is an index below the period (R202). -/
theorem exists_index_of_hue {hw : Int} {p : Nat} (h0 : 0 ≤ hw) (h1 : hw < 2 ^ 27) (hp : p ≠ 0) :
    ∃ idx : Nat, hw * p / 2 ^ 27 = idx ∧ idx < p ∧ (idx : Int) * 2 ^ 27 ≤ hw * p ∧
      hw * p < ((idx : Int) + 1) * 2 ^ 27 := by
  obtain ⟨idx, hidx⟩ := Int.eq_ofNat_of_zero_le (Int.ediv_nonneg (by positivity) (by decide) : 0 ≤ hw * p / 2 ^ 27)
  obtain ⟨hlo, hhi⟩ := floor_bounds (hw * p) (d := 2 ^ 27) (by decide)
  rw [hidx] at hlo hhi
  refine ⟨idx, hidx, ?_, hlo, hhi⟩
  have hbelow : hw * p < 2 ^ 27 * p := mul_lt_mul_of_pos_right h1 (by omega)
  omega

/-! ### The arms of `exec` -/

/-- A command of format Z for a zone outside the store records BAD_ZONE before it reads anything else (R200). -/
theorem exec_badZone {i : Instr} {s : State} (hi : isFormatZ (opcodeOf i) = true)
    (hz : s.params.numZones ≤ (zoneOf i).toNat) : exec i s = .next (raiseBy .badZone i s) := by
  cases i with
  | ccreset | ccrecalc | brreset | brpass | tick | getpar | setpar | getst | setst =>
    exact checkZone_invalid hz _ _
  | init | sat | shr | mul | div | gam8 | gam16 | gamrgb | rgb2hsv | hsv2rgb | calboost => cases hi

section Arm

variable {s : State} {z : Byte} (hz : z.toNat < s.params.numZones)

include hz

theorem exec_ccreset (hp : periodOperand s.a[0] ≠ 0) :
    exec (.ccreset z) s = .next (s.setZone z
      { par := armColorCycle (periodOperand s.a[0]) (s.zone z).par
        st := { (s.zone z).st with ccIdx := 0 } }) :=
  (checkZone_valid hz _ _).trans (congrArg _ (if_neg hp))

theorem exec_ccreset_zero (hp : periodOperand s.a[0] = 0) :
    exec (.ccreset z) s = .next (raiseBy .periodZero (.ccreset z) s) :=
  (checkZone_valid hz _ _).trans (congrArg _ (if_pos hp))

theorem exec_ccrecalc (hp : periodOperand s.a[0] ≠ 0) :
    exec (.ccrecalc z) s = .next (s.setZone z
      { par := armColorCycle (periodOperand s.a[0]) (s.zone z).par
        st := { (s.zone z).st with
          ccIdx := hueIndex (s.zone z).st.outH (periodOperand s.a[0]) } }) :=
  (checkZone_valid hz _ _).trans (congrArg _ (if_neg hp))

theorem exec_ccrecalc_zero (hp : periodOperand s.a[0] = 0) :
    exec (.ccrecalc z) s = .next (raiseBy .periodZero (.ccrecalc z) s) :=
  (checkZone_valid hz _ _).trans (congrArg _ (if_pos hp))

theorem exec_brreset (hp : rampPeriod (periodOperand s.a[0]) (s.zone z).par ≠ 0) :
    exec (.brreset z) s = .next (s.setZone z
      { par := armBreathing (periodOperand s.a[0]) (s.zone z).par
        st := { (s.zone z).st with brState := .startup, brSeg := 0, brTick := 0 } }) :=
  (checkZone_valid hz _ _).trans (congrArg _ (if_neg hp))

theorem exec_brreset_zero (hp : rampPeriod (periodOperand s.a[0]) (s.zone z).par = 0) :
    exec (.brreset z) s = .next (raiseBy .periodZero (.brreset z) s) :=
  (checkZone_valid hz _ _).trans (congrArg _ (if_pos hp))

theorem exec_brpass :
    exec (.brpass z) s = .next (s.setZoneSt z { (s.zone z).st with brState := .passthrough }) :=
  checkZone_valid hz _ _

end Arm

/-- The colour-cycle configuration for a period operand, as numbers (R30, R201). -/
theorem armColorCycle_operand (v : DWord) (zp : ZoneParams) :
    armColorCycle (periodOperand v) zp = { zp with
      ccPeriod := BitVec.ofNat 32 (v.toNat % 2 ^ 32)
      ccSlope := BitVec.ofNat 32 (2 ^ 27 / (v.toNat % 2 ^ 32))
      ccEn := true } := by
  rw [armColorCycle, slopeOf_eq_ofNat, periodOperand_toNat, periodOperand_eq_ofNat]

/-! ### The obligations -/

/-- Settles O19: the zone check is the first of each command's checks. -/
theorem badZoneComesFirst : Obligations.BadZoneComesFirst := by
  intro s z i hz hfault hi
  rw [← raiseBy_eq hfault]
  simp only [List.mem_cons, List.not_mem_nil, or_false] at hi
  rcases hi with rfl | rfl | rfl | rfl | rfl | rfl | rfl | rfl | rfl <;> exact exec_badZone rfl hz

/-- Settles O41: the record is replaced by its armed one, with the slope as a quotient of numbers. -/
theorem ccresetArmsTheCycle : Obligations.CcresetArmsTheCycle := by
  rintro s z p hz rfl hp
  rw [exec_ccreset hz (mt (periodOperand_eq_zero_iff _).mp hp), armColorCycle_operand]
  rfl

/-- Settles O42: the floor of R202 is the index, and the wrapped hue keeps it below the period. -/
theorem ccrecalcKeepsThePhase : Obligations.CcrecalcKeepsThePhase := by
  rintro s z p hw turns hz rfl hp hout h0 h1
  obtain ⟨idx, hidx, hlt, hlo, hhi⟩ := exists_index_of_hue h0 h1 hp
  refine ⟨idx, hlt, hlo, hhi, ?_⟩
  rw [exec_ccrecalc hz (mt (periodOperand_eq_zero_iff _).mp hp), armColorCycle_operand, hueIndex_eq hout h0 h1,
    periodOperand_toNat, hidx, fieldWord_natCast]
  rfl

/-- Settles O43: the ramp period is the total period divided by the number of segments present. -/
theorem brresetSplitsThePeriod : Obligations.BrresetSplitsThePeriod := by
  rintro s z p nseg rp hz rfl rfl rfl hrp
  rw [← rampPeriod_operand] at hrp ⊢
  rw [exec_brreset hz hrp, armBreathing, slopeOf_eq_ofNat, ← periodOperand_eq_ofNat]
  rfl

/-- Settles O44: a period below the number of segments leaves a ramp period of 0. -/
theorem zeroPeriodFaults : Obligations.ZeroPeriodFaults := by
  intro s z hz hfault
  simp only [← raiseBy_eq hfault]
  refine ⟨fun hp => ?_, fun hp => ?_⟩
  · have hp0 := (periodOperand_eq_zero_iff _).mpr hp
    exact ⟨exec_ccreset_zero hz hp0, exec_ccrecalc_zero hz hp0⟩
  · refine exec_brreset_zero hz ?_
    rw [rampPeriod_operand]
    exact Nat.div_eq_of_lt hp

/-- Settles O45: past the zone check, BRPASS replaces BR_STATE alone. -/
theorem brpassEntersPassthrough : Obligations.BrpassEntersPassthrough := fun _ _ hz => exec_brpass hz

end Sys2Proof.Machine
end

section
/-! SUPPORT. The breathing level and brightness (R205 to R207, R221): their ranges, and the brightness as a
product rounded to nearest. -/

namespace Sys2Proof.Machine

theorem breathLevel_bounds (p : Params) (zp : ZoneParams) (n : Nat) :
    0 ≤ breathLevel p zp n ∧ breathLevel p zp n ≤ one := by
  unfold breathLevel
  split
  · exact shapeCubic_bounds p _
  · exact clamp_bounds _ (by decide)

/-- A level in [0, ONE] scales an input value toward 0, so the rounded product fits its field (R207). -/
theorem rmul27_level_bounds {v l : Int} (h0 : 0 ≤ l) (h1 : l ≤ one) :
    min v 0 ≤ rmul27 v l ∧ rmul27 v l ≤ max v 0 := by
  refine nearest_between (by decide) (rmul27_nearest v l) ?_ ?_ <;> rw [← one_eq]
  · rcases le_total 0 v with hv | hv
    · rw [min_eq_right hv, zero_mul]; exact mul_nonneg hv h0
    · rw [min_eq_left hv]; exact mul_le_mul_of_nonpos_left h1 hv
  · rcases le_total 0 v with hv | hv
    · rw [max_eq_left hv]; exact mul_le_mul_of_nonneg_left h1 hv
    · rw [max_eq_right hv, zero_mul]; exact mul_nonpos_of_nonpos_of_nonneg hv h0

theorem bright_toInt (p : Params) (zp : ZoneParams) (st : ZoneState) (n : Nat) :
    (bright p zp st n).toInt = rmul27 st.inV.toInt (breathLevel p zp n) := by
  obtain ⟨h0, h1⟩ := breathLevel_bounds p zp n
  obtain ⟨hlo, hhi⟩ := rmul27_level_bounds (v := st.inV.toInt) h0 h1
  have hvlo := BitVec.le_two_mul_toInt (x := st.inV)
  have hvhi := BitVec.two_mul_toInt_lt (x := st.inV)
  rw [bright, fieldWord_toInt] <;> omega

theorem bright_nearest (p : Params) (zp : ZoneParams) (st : ZoneState) (n : Nat) :
    Nearest (st.inV.toInt * breathLevel p zp n) (2 ^ 27) (bright p zp st n).toInt := by
  rw [bright_toInt]
  exact rmul27_nearest _ _

/-- Settles O51: each intermediate of the curve is the rounded product its rule names. -/
theorem breathLevelFollowsTheCurve : Obligations.BreathLevelFollowsTheCurve := by
  intro p zp st n
  have hclamp (x : Int) : clamp x 0 one = max 0 (min x (2 ^ 27)) := clamp_eq_max_min x (by decide)
  obtain ⟨h0, h1⟩ := breathLevel_bounds p zp n
  refine ⟨_, _, _, _, _, _, rfl, rmul27_nearest _ _, rmul27_nearest _ _, rmul27_nearest _ _, rmul27_nearest _ _,
    rmul27_nearest _ _, ?_, ⟨h0, h1⟩, fun hv _ => ?_⟩
  · simp only [breathLevel, shapeCubic, hclamp]
  · obtain ⟨hlo, hhi⟩ := rmul27_level_bounds (v := st.inV.toInt) h0 h1
    rw [bright_toInt]
    omega

end Sys2Proof.Machine
end

section
/-! SUPPORT. The breathing of one TICK (R209 to R218): BR_STEP follows the transition table row by row, and TICK
runs it on the zone's own breathing fields as often as the drift rule says. -/

namespace Sys2Proof.Machine

/-! ### BR_STEP against the table -/

/-- `st'` is what the row of the transition table makes of `st`. -/
structure FollowsRow (p : Params) (zp : ZoneParams) (st : ZoneState) (row : BreathRow) (st' : ZoneState) : Prop where
  brState : st'.brState = row.next
  brSeg : st'.brSeg.toNat = row.seg
  brTick : st'.brTick.toNat = row.tick
  outV : st'.outV = row.level.elim st.inV (bright p zp st)

theorem ofNat32_toNat_of_le {n : Nat} {w : Word} (h : n ≤ w.toNat) : (BitVec.ofNat 32 n).toNat = n := by
  rw [BitVec.toNat_ofNat, Nat.mod_eq_of_lt (h.trans_lt w.isLt)]

/-- A period is present when it is not 0, as the table says it, or positive, as the step functions do. -/
theorem toNat_pos_iff_ne_zero (w : Word) : 0 < w.toNat ↔ w ≠ 0 :=
  Nat.pos_iff_ne_zero.trans (not_congr (BitVec.toNat_inj (y := (0 : Word))))

section Rows

variable (p : Params) (zp : ZoneParams) {st : ZoneState}

theorem brStep_startup_follows (h : st.brState = .startup) :
    FollowsRow p zp st (breathTable zp st) (brStep p zp st) := by
  simp only [brStep, breathTable, h]
  exact ⟨rfl, rfl, rfl, rfl⟩

theorem brStep_rampUp_follows (h : st.brState = .rampUp) :
    FollowsRow p zp st (breathTable zp st) (brStep p zp st) := by
  have hle : tableUp zp st ≤ zp.brRamp.toNat := Nat.min_le_right _ _
  have hseg : rampUpSeg zp st = tableUp zp st := rfl
  simp only [brStep, breathTable, h, brRampUp, hseg, ← toNat_pos_iff_ne_zero]
  by_cases hrp : tableUp zp st = zp.brRamp.toNat
  · rw [if_pos hrp, if_neg (by omega), hrp]
    split
    · exact ⟨rfl, ofNat32_toNat_of_le le_rfl, rfl, rfl⟩
    · exact ⟨rfl, ofNat32_toNat_of_le le_rfl, rfl, rfl⟩
  · rw [if_neg hrp, if_pos (by omega)]
    exact ⟨rfl, ofNat32_toNat_of_le hle, rfl, rfl⟩

theorem brStep_topSeg_follows (h : st.brState = .topSeg) :
    FollowsRow p zp st (breathTable zp st) (brStep p zp st) := by
  simp only [brStep, breathTable, h, brTopSeg]
  cases hen : zp.brEn with
  | false => exact ⟨rfl, rfl, rfl, rfl⟩
  | true =>
    by_cases htick : st.brTick.toNat + 1 < zp.brTop.toNat
    · simp only [if_pos htick, if_neg (Nat.not_le.mpr htick), ge_iff_le, ↓reduceIte, Bool.true_eq_false]
      exact ⟨rfl, rfl, ofNat32_toNat_of_le htick.le, rfl⟩
    · simp only [if_neg htick, if_pos (Nat.not_lt.mp htick), ge_iff_le, ↓reduceIte, Bool.true_eq_false]
      exact ⟨rfl, rfl, rfl, rfl⟩

theorem brStep_rampDown_follows (h : st.brState = .rampDown) :
    FollowsRow p zp st (breathTable zp st) (brStep p zp st) := by
  have hseg : rampDownSeg zp st = tableDown zp st := by
    unfold rampDownSeg tableDown
    split <;> omega
  have hle : tableDown zp st ≤ zp.brRamp.toNat := (Nat.sub_le _ _).trans (Nat.min_le_right _ _)
  simp only [brStep, breathTable, h, brRampDown, hseg, ← toNat_pos_iff_ne_zero]
  by_cases hfoot : tableDown zp st = 0
  · rw [if_pos hfoot, if_neg (by omega), hfoot]
    split
    · exact ⟨rfl, rfl, rfl, rfl⟩
    · exact ⟨rfl, rfl, rfl, rfl⟩
  · rw [if_neg hfoot, if_pos (by omega)]
    exact ⟨rfl, ofNat32_toNat_of_le hle, rfl, rfl⟩

theorem brStep_bottomSeg_follows (h : st.brState = .bottomSeg) :
    FollowsRow p zp st (breathTable zp st) (brStep p zp st) := by
  simp only [brStep, breathTable, h, brBottomSeg]
  cases hen : zp.brEn with
  | false => exact ⟨rfl, rfl, rfl, rfl⟩
  | true =>
    by_cases htick : st.brTick.toNat + 1 < zp.brBot.toNat
    · simp only [if_pos htick, if_neg (Nat.not_le.mpr htick), ge_iff_le, ↓reduceIte, Bool.true_eq_false]
      exact ⟨rfl, rfl, ofNat32_toNat_of_le htick.le, rfl⟩
    · simp only [if_neg htick, if_pos (Nat.not_lt.mp htick), ge_iff_le, ↓reduceIte, Bool.true_eq_false]
      exact ⟨rfl, rfl, rfl, rfl⟩

theorem brStep_passthrough_follows (h : st.brState = .passthrough) :
    FollowsRow p zp st (breathTable zp st) (brStep p zp st) := by
  simp only [brStep, breathTable, h]
  exact ⟨h, rfl, rfl, rfl⟩

end Rows

/-- One breathing step is the table's row for the zone (R209, R218). -/
theorem brStep_follows (p : Params) (zp : ZoneParams) (st : ZoneState) :
    FollowsRow p zp st (breathTable zp st) (brStep p zp st) := by
  cases h : st.brState with
  | startup => exact brStep_startup_follows p zp h
  | rampUp => exact brStep_rampUp_follows p zp h
  | topSeg => exact brStep_topSeg_follows p zp h
  | rampDown => exact brStep_rampDown_follows p zp h
  | bottomSeg => exact brStep_bottomSeg_follows p zp h
  | passthrough => exact brStep_passthrough_follows p zp h

/-! ### The breathing fields through a TICK -/

/-- `s` and `t` agree in the fields breathing writes and in the input value it reads. -/
structure BreathAgree (s t : ZoneState) : Prop where
  phase : breathPhase s = breathPhase t
  inV : s.inV = t.inV
  outV : s.outV = t.outV

theorem brStep_inV (p : Params) (zp : ZoneParams) (st : ZoneState) : (brStep p zp st).inV = st.inV := by
  rw [brStep_frame]

theorem BreathAgree.applyTimes {s t : ZoneState} (h : BreathAgree s t) (p : Params) (zp : ZoneParams) (n : Nat) :
    BreathAgree (applyTimes n (brStep p zp) s) (applyTimes n (brStep p zp) t) := by
  induction n generalizing s t with
  | zero => exact h
  | succ n ih =>
    obtain ⟨hphase, hinV, -⟩ := h
    simp only [breathPhase, Prod.mk.injEq] at hphase
    obtain ⟨hstate, hseg, htick⟩ := hphase
    obtain ⟨hphase', houtV'⟩ := brStep_congr p zp hstate hseg htick hinV
    exact ih ⟨hphase', by rw [brStep_inV, brStep_inV, hinV], houtV'⟩

/-- The colour cycle and the forced saturation come before breathing and leave its fields alone (R217). -/
theorem tickState_breathAgree (p : Params) (zn : Zone) :
    BreathAgree (tickState p zn) (applyTimes (driftRuns zn.st.brDrift) (brStep p zn.par) zn.st) := by
  have hcolor : (tickSaturation zn.par (tickColor zn.par zn.st)).brDrift = zn.st.brDrift := by
    rw [tickSaturation, tickColor_same]
  have hagree : BreathAgree
      { tickSaturation zn.par (tickColor zn.par zn.st) with brDrift := driftAfter zn.st.brDrift } zn.st := by
    rw [tickSaturation, tickColor_same]
    exact ⟨rfl, rfl, rfl⟩
  obtain ⟨hphase, hinV, houtV⟩ := hagree.applyTimes p zn.par (driftRuns zn.st.brDrift)
  simp only [tickState, tickResolve, tickBreath, hcolor]
  exact ⟨hphase, hinV, houtV⟩

theorem tickState_brState (p : Params) (zn : Zone) :
    (tickState p zn).brState = (applyTimes (driftRuns zn.st.brDrift) (brStep p zn.par) zn.st).brState :=
  congrArg Prod.fst (tickState_breathAgree p zn).phase

/-- Without drift, a TICK breathes by one step (R216). -/
theorem tickState_breathAgree_of_drift_zero (p : Params) {zn : Zone} (h : zn.st.brDrift = 0) :
    BreathAgree (tickState p zn) (brStep p zn.par zn.st) := by
  have hagree := tickState_breathAgree p zn
  rwa [h, driftRuns_zero] at hagree

/-- Without drift, a TICK moves the breathing machine by the table's row (R216, R218). -/
theorem tickState_follows (p : Params) {zn : Zone} (h : zn.st.brDrift = 0) :
    FollowsRow p zn.par zn.st (breathTable zn.par zn.st) (tickState p zn) := by
  obtain ⟨hphase, -, houtV⟩ := tickState_breathAgree_of_drift_zero p h
  simp only [breathPhase, Prod.mk.injEq] at hphase
  obtain ⟨hstate, hseg, htick⟩ := hphase
  obtain ⟨rstate, rseg, rtick, rout⟩ := brStep_follows p zn.par zn.st
  exact ⟨hstate.trans rstate, hseg ▸ rseg, htick ▸ rtick, houtV.trans rout⟩

/-! ### What the table keeps -/

/-- The table leads neither into PASSTHROUGH nor out of it (R215, R219 (c)). -/
theorem breathTable_passthrough_iff (zp : ZoneParams) (st : ZoneState) :
    (breathTable zp st).next = .passthrough ↔ st.brState = .passthrough := by
  unfold breathTable
  cases st.brState with
  | startup => exact iff_of_false nofun nofun
  | passthrough => exact iff_of_true rfl rfl
  | rampUp | topSeg | rampDown | bottomSeg =>
    dsimp only
    split_ifs <;> exact iff_of_false nofun nofun

/-- Without hold periods the table's ramps lead to ramps (R219 (a)). -/
theorem breathTable_rampOnly {zp : ZoneParams} (htop : zp.brTop = 0) (hbot : zp.brBot = 0) {st : ZoneState}
    (h : st.brState.isRampOnly = true) : (breathTable zp st).next.isRampOnly = true := by
  unfold breathTable
  cases hst : st.brState with
  | startup => rfl
  | rampUp => simp only [htop, ne_eq, not_true_eq_false, ↓reduceIte]; split <;> rfl
  | rampDown => simp only [hbot, ne_eq, not_true_eq_false, ↓reduceIte]; split <;> rfl
  | topSeg | bottomSeg | passthrough => rw [hst] at h; cases h

/-- With BR_EN = 0 the table's hold rows stay where they are (R212, R214). -/
theorem breathTable_disabled_hold {zp : ZoneParams} (hen : zp.brEn = false) {st : ZoneState}
    (h : st.brState = .topSeg ∨ st.brState = .bottomSeg) :
    (breathTable zp st).next = st.brState ∧ (breathTable zp st).seg = st.brSeg.toNat ∧
      (breathTable zp st).tick = st.brTick.toNat := by
  unfold breathTable
  rcases h with h | h <;> simp only [h, hen, ↓reduceIte, and_self]

/-! ### The same of a TICK, whatever its drift -/

theorem tickState_passthrough_iff (p : Params) (zn : Zone) :
    (tickState p zn).brState = .passthrough ↔ zn.st.brState = .passthrough := by
  rw [tickState_brState]
  refine applyTimes_keeps (P := fun x : ZoneState => x.brState = .passthrough ↔ zn.st.brState = .passthrough)
    (fun x hx => ?_) _ _ Iff.rfl
  rw [(brStep_follows p zn.par x).brState, breathTable_passthrough_iff, hx]

theorem tickState_rampOnly (p : Params) {zn : Zone} (htop : zn.par.brTop = 0) (hbot : zn.par.brBot = 0)
    (h : zn.st.brState.isRampOnly = true) : (tickState p zn).brState.isRampOnly = true := by
  rw [tickState_brState]
  refine applyTimes_keeps (P := fun x : ZoneState => x.brState.isRampOnly = true) (fun x hx => ?_) _ _ h
  rw [(brStep_follows p zn.par x).brState]
  exact breathTable_rampOnly htop hbot hx

theorem brStep_disabled_hold (p : Params) {zp : ZoneParams} (hen : zp.brEn = false) {st : ZoneState}
    (h : st.brState = .topSeg ∨ st.brState = .bottomSeg) : breathPhase (brStep p zp st) = breathPhase st := by
  obtain ⟨hnext, hseg, htick⟩ := breathTable_disabled_hold hen h
  obtain ⟨rstate, rseg, rtick, -⟩ := brStep_follows p zp st
  simp only [breathPhase, Prod.mk.injEq]
  exact ⟨rstate.trans hnext, BitVec.eq_of_toNat_eq (rseg.trans hseg), BitVec.eq_of_toNat_eq (rtick.trans htick)⟩

theorem tickState_disabled_hold (p : Params) {zn : Zone} (hen : zn.par.brEn = false)
    (h : zn.st.brState = .topSeg ∨ zn.st.brState = .bottomSeg) :
    breathPhase (tickState p zn) = breathPhase zn.st := by
  rw [(tickState_breathAgree p zn).phase]
  refine applyTimes_keeps (P := fun x => breathPhase x = breathPhase zn.st) (fun x hx => ?_) _ _ rfl
  have hstate : x.brState = zn.st.brState := congrArg Prod.fst hx
  rw [brStep_disabled_hold p hen (by rwa [hstate]), hx]

/-! ### The obligations about one command -/

/-- What TICK of a zone in the store makes of the zone's records (R217). -/
theorem exec_tick_zone {s t : State} {z : Byte} (hinv : s.Inv) (hz : z.toNat < s.params.numZones)
    (h : exec (.tick z) s = .next t) :
    t.zone z = { par := (s.zone z).par, st := tickState s.params (s.zone z) } := by
  obtain ⟨_, hlength, _⟩ := hinv
  rw [exec_tick hz] at h
  cases h
  exact zone_setZone_same (hlength.symm ▸ hz) _

/-- Settles O49: the row of the table, with the brightness as a rounded product. -/
theorem tickFollowsTheBreathingTable : Obligations.TickFollowsTheBreathingTable := by
  rintro s t z st st' row hinv hz h rfl rfl hdrift rfl
  rw [exec_tick_zone hinv hz h]
  obtain ⟨hstate, hseg, htick, hout⟩ := tickState_follows s.params hdrift
  refine ⟨hstate, hseg, htick, ?_⟩
  cases hlevel : (breathTable (s.zone z).par (s.zone z).st).level with
  | none => rw [hlevel] at hout; exact hout
  | some n =>
    rw [hlevel] at hout
    dsimp only
    rw [hout]
    exact bright_nearest _ _ _ _

/-- Settles O50: the drift rule runs the step not at all or twice. -/
theorem driftRunsTheBreathingStep : Obligations.DriftRunsTheBreathingStep := by
  rintro s t z st st' hinv hz h rfl rfl
  rw [exec_tick_zone hinv hz h]
  obtain ⟨hphase, -, hout⟩ := tickState_breathAgree s.params (s.zone z)
  refine ⟨fun hneg => ?_, fun hpos => ?_⟩
  · rw [driftRuns_neg hneg] at hphase hout
    exact ⟨hphase, hout⟩
  · rw [driftRuns_pos hpos] at hphase hout
    exact ⟨hphase, hout⟩

/-- The writers of a zone's records against PASSTHROUGH: BRRESET leaves it, BRPASS enters it, SETST may do either,
and the others keep it or its absence. -/
theorem ZoneWrite.passthrough_cases {z : Byte} {zn zn' : Zone} {i : Instr} (h : ZoneWrite z zn i zn') :
    (zn'.st.brState = .passthrough ↔ zn.st.brState = .passthrough) ∨
    (i = .brreset z ∧ zn'.st.brState ≠ .passthrough) ∨ (i = .brpass z ∧ zn'.st.brState = .passthrough) ∨
    i = .setst z := by
  cases h with
  | ccreset | ccrecalc | setpar => exact .inl Iff.rfl
  | tick ps => exact .inl (tickState_passthrough_iff ps zn)
  | brreset => exact .inr (.inl ⟨rfl, nofun⟩)
  | brpass => exact .inr (.inr (.inl ⟨rfl, rfl⟩))
  | setst => exact .inr (.inr (.inr rfl))

/-- Settles O23, writer by writer of a zone's records. -/
theorem passthroughIsEnteredAndLeftExplicitly : Obligations.PassthroughIsEnteredAndLeftExplicitly := by
  intro i s t z h
  rcases exec_zone_writes h z with e | rfl | hw
  · rw [e]
    exact ⟨fun hin hout => absurd hin hout, fun hin hout => absurd hin hout⟩
  · obtain rfl := Host.Outcome.next.inj h
    have hzero : State.zone { s.clearZones with y := Vector.replicate 4 0 } z = Zone.zero := zone_clearZones s z
    rw [hzero]
    exact ⟨nofun, fun _ _ => .inl rfl⟩
  · rcases hw.passthrough_cases with hkeeps | ⟨hi, hleft⟩ | ⟨hi, hentered⟩ | hi
    · exact ⟨fun hin hout => absurd (hkeeps.mp hin) hout, fun hin hout => absurd (hkeeps.mpr hin) hout⟩
    · exact ⟨fun hin _ => absurd hin hleft, fun _ _ => .inr (.inl hi)⟩
    · exact ⟨fun _ _ => .inl hi, fun _ hout => absurd hentered hout⟩
    · exact ⟨fun _ _ => .inr hi, fun _ _ => .inr (.inr hi)⟩

end Sys2Proof.Machine
end

section
/-! SUPPORT. The colour cycle of one TICK (R208, R216): what one CC_STEP and several make of the index and the hue,
and that TICK runs them on the zone's own colour fields. -/

namespace Sys2Proof.Machine

/-! ### One step -/

/-- Below the period, the next index counts modulo the period (R208). -/
theorem nextHueIndex_of_lt {zp : ZoneParams} {st : ZoneState} (h : st.ccIdx.toNat < zp.ccPeriod.toNat) :
    nextHueIndex zp st = (st.ccIdx.toNat + 1) % zp.ccPeriod.toNat := by
  unfold nextHueIndex
  split
  · rw [show st.ccIdx.toNat + 1 = zp.ccPeriod.toNat by omega, Nat.mod_self]
  · rw [Nat.mod_eq_of_lt (by omega)]

/-- Below the period, an enabled step counts on and sets the hue of the new index (R208). -/
theorem ccStep_of_lt {zp : ZoneParams} (hen : zp.ccEn = true) {st : ZoneState}
    (h : st.ccIdx.toNat < zp.ccPeriod.toNat) :
    (ccStep zp st).ccIdx.toNat = (st.ccIdx.toNat + 1) % zp.ccPeriod.toNat ∧
      (ccStep zp st).outH.toInt = ((ccStep zp st).ccIdx.toNat : Int) * zp.ccSlope.toInt % 2 ^ 27 := by
  have hidx : (ccStep zp st).ccIdx.toNat = (st.ccIdx.toNat + 1) % zp.ccPeriod.toNat := by
    rw [ccStep_enabled hen, nextHueIndex_of_lt h]
    exact ofNat32_toNat_of_le (Nat.mod_lt _ (by omega)).le
  refine ⟨hidx, ?_⟩
  rw [hidx, ccStep_enabled hen, nextHueIndex_of_lt h]
  exact fieldWord_mod_one_toInt _

/-- At or above the period, an enabled step wraps to index 0 and hue 0 (R35, R208, R321). -/
theorem ccStep_wraps {zp : ZoneParams} (hen : zp.ccEn = true) {st : ZoneState}
    (h : zp.ccPeriod.toNat ≤ st.ccIdx.toNat) : ccStep zp st = { st with ccIdx := 0, outH := 0 } := by
  rw [ccStep_enabled hen, nextHueIndex_wraps h, Nat.cast_zero, zero_mul, Int.zero_emod]
  rfl

/-- From index 0, an enabled step goes on to index 1, unless the period is 0 or 1 (R208). -/
theorem ccStep_of_idx_zero {zp : ZoneParams} (hen : zp.ccEn = true) {st : ZoneState} (h : st.ccIdx = 0) :
    (ccStep zp st).ccIdx = (if 1 < zp.ccPeriod.toNat then 1 else 0) ∧
      (ccStep zp st).outH.toInt = (if 1 < zp.ccPeriod.toNat then zp.ccSlope.toInt % 2 ^ 27 else 0) := by
  have hnext : nextHueIndex zp st = if 1 < zp.ccPeriod.toNat then 1 else 0 := by
    rw [nextHueIndex, h]
    change (if zp.ccPeriod.toNat ≤ 1 then 0 else 1) = _
    split <;> split <;> omega
  rw [ccStep_enabled hen, hnext]
  dsimp only
  rw [fieldWord_mod_one_toInt, one_eq]
  split
  · exact ⟨rfl, by rw [Nat.cast_one, one_mul]⟩
  · exact ⟨rfl, by rw [Nat.cast_zero, zero_mul, Int.zero_emod]⟩

/-! ### Several steps -/

/-- Steps of a disabled cycle pass the input hue through and keep the index (R208). -/
theorem applyTimes_ccStep_disabled {zp : ZoneParams} (hen : zp.ccEn = false) (k : Nat) (st : ZoneState) :
    applyTimes (k + 1) (ccStep zp) st = { st with outH := st.inH } := by
  rw [applyTimes_succ, ccStep_disabled hen]
  refine applyTimes_keeps (f := ccStep zp) (P := fun x => x = { st with outH := st.inH }) (fun x hx => ?_) k _ rfl
  rw [ccStep_disabled hen, hx]

/-- Below the period, `k + 1` steps advance the index by `k + 1` modulo the period (R208). -/
theorem applyTimes_ccStep_of_lt {zp : ZoneParams} (hen : zp.ccEn = true) (k : Nat) {st : ZoneState}
    (h : st.ccIdx.toNat < zp.ccPeriod.toNat) :
    (applyTimes (k + 1) (ccStep zp) st).ccIdx.toNat = (st.ccIdx.toNat + (k + 1)) % zp.ccPeriod.toNat ∧
      (applyTimes (k + 1) (ccStep zp) st).outH.toInt =
        ((applyTimes (k + 1) (ccStep zp) st).ccIdx.toNat : Int) * zp.ccSlope.toInt % 2 ^ 27 := by
  induction k generalizing st with
  | zero => exact ccStep_of_lt hen h
  | succ k ih =>
    obtain ⟨hidx, -⟩ := ccStep_of_lt hen h
    have hlt : (ccStep zp st).ccIdx.toNat < zp.ccPeriod.toNat := hidx ▸ Nat.mod_lt _ (by omega)
    obtain ⟨hidx', hhue'⟩ := ih hlt
    rw [applyTimes_succ (k + 1)]
    refine ⟨?_, hhue'⟩
    rw [hidx', hidx, Nat.mod_add_mod]
    congr 1
    omega

/-! ### The colour fields through a TICK -/

theorem driftRuns_eq (d : Word) : driftRuns d = if d = 0 then 1 else if d.msb = false then 2 else 0 := by
  have hzero : d.toInt = 0 ↔ d = 0 := BitVec.toInt_inj (y := (0 : Word))
  have hmsb : d.msb = false ↔ 0 ≤ d.toInt := by
    rw [BitVec.msb_eq_toInt, decide_eq_false_iff_not, not_lt]
  simp only [driftRuns, ← hzero, hmsb]
  split_ifs <;> omega

/-- Breathing and the forced saturation leave the index and the hue of the colour cycle (R217). -/
theorem tickState_color (p : Params) (zn : Zone) :
    (tickState p zn).ccIdx = (tickColor zn.par zn.st).ccIdx ∧
      (tickState p zn).outH = (tickColor zn.par zn.st).outH := by
  simp only [tickState, tickResolve]
  rw [tickBreath_same, tickSaturation]
  exact ⟨rfl, rfl⟩

theorem tickColor_of_runs {st : ZoneState} {k : Nat} (h : driftRuns st.ccDrift = k) (zp : ZoneParams) :
    tickColor zp st = applyTimes k (ccStep zp) { st with ccDrift := driftAfter st.ccDrift } := by
  rw [tickColor, h]

theorem tickColor_of_lt {zp : ZoneParams} (hen : zp.ccEn = true) {st : ZoneState}
    (h : st.ccIdx.toNat < zp.ccPeriod.toNat) {k : Nat} (hk : driftRuns st.ccDrift = k) (hk0 : k ≠ 0) :
    (tickColor zp st).ccIdx.toNat = (st.ccIdx.toNat + k) % zp.ccPeriod.toNat ∧
      (tickColor zp st).outH.toInt = ((tickColor zp st).ccIdx.toNat : Int) * zp.ccSlope.toInt % 2 ^ 27 := by
  obtain ⟨j, rfl⟩ := Nat.exists_eq_succ_of_ne_zero hk0
  rw [tickColor_of_runs hk]
  exact applyTimes_ccStep_of_lt hen j (st := { st with ccDrift := driftAfter st.ccDrift }) h

/-- At or above the period, the first step of a TICK wraps and the others go on from index 0 (R35, R208). -/
theorem tickColor_wraps {zp : ZoneParams} (hen : zp.ccEn = true) {st : ZoneState}
    (h : zp.ccPeriod.toNat ≤ st.ccIdx.toNat) {k : Nat} (hk : driftRuns st.ccDrift = k + 1) :
    tickColor zp st = applyTimes k (ccStep zp)
      { st with ccIdx := 0, outH := 0, ccDrift := driftAfter st.ccDrift } := by
  rw [tickColor_of_runs hk, applyTimes_succ]
  exact congrArg _ (ccStep_wraps hen (st := { st with ccDrift := driftAfter st.ccDrift }) h)

/-- Settles O47: as many steps as the drift rule says, each of them R208's. -/
theorem tickAdvancesTheHue : Obligations.TickAdvancesTheHue := by
  rintro s t z k zp st st' hinv hz h rfl rfl rfl hk
  rw [← driftRuns_eq] at hk
  have hst := exec_tick_zone hinv hz h
  obtain ⟨hidx, hout⟩ := tickState_color s.params (s.zone z)
  rw [hst, hidx, hout]
  refine ⟨fun hk0 => ?skipped, fun hk0 hen => ?disabled, fun hk0 hen hlt => ?below, fun hk1 hen hge => ?once,
    fun hk2 hen hge => ?twice⟩
  case skipped =>
    rw [tickColor_of_runs (hk.symm.trans hk0)]
    exact ⟨rfl, rfl⟩
  case disabled =>
    obtain ⟨j, rfl⟩ := Nat.exists_eq_succ_of_ne_zero hk0
    rw [tickColor_of_runs hk.symm, applyTimes_ccStep_disabled hen]
    exact ⟨rfl, rfl⟩
  case below => exact tickColor_of_lt hen hlt hk.symm hk0
  case once =>
    rw [tickColor_wraps hen hge (hk.symm.trans hk1)]
    exact ⟨rfl, rfl⟩
  case twice =>
    rw [tickColor_wraps hen hge (hk.symm.trans hk2)]
    exact ccStep_of_idx_zero hen rfl

end Sys2Proof.Machine
end

section
/-! SUPPORT. Runs of commands through the window (R24, R55), and what a run of TICKs makes of its zone: as many
applications of one TICK to the zone's state record. -/

namespace Sys2Proof.Machine

/-! ### Runs -/

theorem exec_inv {i : Instr} {s t : State} (h : exec i s = .next t) (hs : s.Inv) : t.Inv := by
  obtain ⟨_, hparams, _, _⟩ := exec_frame h
  exact KeepsInv.inv ⟨hparams, exec_zones_length h, exec_consistent h⟩ hs

theorem core_run_succ {M : Host.Core} {k : Nat} {s t : M.State} (h : M.step s = .next t) :
    M.run (k + 1) s = M.run k t := by
  simp only [Host.Core.run, h]

/-- A run performs its first command and goes on as the run of the others (R55, R59). -/
theorem runCommands_cons {i : Instr} {is : List Instr} {s t : State} (hi : i.wellFormed = true)
    (hfault : s.status.fault = false)
    (h : exec i { s with bus := is.map cmdAccess, reply := none } = .next t) :
    runCommands (i :: is) s = runCommands is t := by
  have hstep : step { s with bus := (i :: is).map cmdAccess } = .next t := by
    rw [stepPerformsTheDecodedCommand { s with bus := (i :: is).map cmdAccess } (encode i) (is.map cmdAccess) i rfl
      hfault (decodeOfEncodeIsTheCommand i hi)]
    exact h
  obtain ⟨_, _, hbus, _⟩ := exec_frame h
  have ht : ({ t with bus := is.map cmdAccess } : State) = t := by
    rw [← show t.bus = is.map cmdAccess from hbus]
  rw [runCommands, runCommands, ht]
  exact core_run_succ (M := core) hstep

/-! ### Runs of TICKs -/

/-- One TICK as a step on a zone's state record (R217). -/
def zoneTick (p : Params) (zp : ZoneParams) (st : ZoneState) : ZoneState := tickState p { par := zp, st := st }

/-- TICK of a zone in the store is `zoneTick` on its state record, and records no fault. -/
theorem exec_tick_zoneTick {s t : State} {z : Byte} (hinv : s.Inv) (hz : z.toNat < s.params.numZones)
    (h : exec (.tick z) s = .next t) :
    t.zone z = { par := (s.zone z).par, st := zoneTick s.params (s.zone z).par (s.zone z).st } ∧
      t.status = s.status := by
  refine ⟨exec_tick_zone hinv hz h, ?_⟩
  rw [exec_tick hz] at h
  cases h
  rfl

/-- A run of `n` TICKs completes and applies `zoneTick` `n` times (R217). -/
theorem runCommands_ticks (n : Nat) {s : State} {z : Byte} (hinv : s.Inv) (hfault : s.status.fault = false)
    (hz : z.toNat < s.params.numZones) :
    ∃ t, runCommands (List.replicate n (.tick z)) s = .next t ∧
      t.zone z = { par := (s.zone z).par, st := (zoneTick s.params (s.zone z).par)^[n] (s.zone z).st } ∧
      t.status = s.status := by
  induction n generalizing s with
  | zero => exact ⟨{ s with bus := [] }, rfl, rfl, rfl⟩
  | succ n ih =>
    obtain ⟨t, ht⟩ := exec_next (.tick z)
      { s with bus := (List.replicate n (Instr.tick z)).map cmdAccess, reply := none }
    obtain ⟨_, hparams, _, _⟩ := exec_frame ht
    obtain ⟨hzone, hstatus⟩ := exec_tick_zoneTick
      (s := { s with bus := (List.replicate n (Instr.tick z)).map cmdAccess, reply := none }) hinv hz ht
    obtain ⟨u, hu, huzone, hustatus⟩ := ih (exec_inv ht hinv) (by rw [hstatus]; exact hfault)
      (by rw [hparams]; exact hz)
    refine ⟨u, ?_, ?_, hustatus.trans hstatus⟩
    · rw [List.replicate_succ, runCommands_cons rfl hfault ht, hu]
    · rw [huzone, hzone, hparams]
      rfl

/-- Settles O52: every TICK keeps the machine on its ramps. -/
theorem noHoldsWithoutHoldPeriods : Obligations.NoHoldsWithoutHoldPeriods := by
  intro n s z hinv hfault hz htop hbot hramp
  obtain ⟨t, ht, hzone, -⟩ := runCommands_ticks n hinv hfault hz
  refine ⟨t, ht, ?_⟩
  rw [hzone]
  exact Function.Iterate.rec (fun st : ZoneState => st.brState.isRampOnly = true) hramp
    (fun st hst => tickState_rampOnly s.params (zn := { par := (s.zone z).par, st := st }) htop hbot hst) n

/-- Settles O54: every TICK keeps the hold where it is. -/
theorem disabledHoldStaysStuck : Obligations.DisabledHoldStaysStuck := by
  intro n s z hinv hfault hz hen hhold
  obtain ⟨t, ht, hzone, -⟩ := runCommands_ticks n hinv hfault hz
  refine ⟨t, ht, ?_⟩
  rw [hzone]
  refine Function.Iterate.rec (fun st => breathPhase st = breathPhase (s.zone z).st) rfl (fun st hst => ?_) n
  have hstate : st.brState = (s.zone z).st.brState := congrArg Prod.fst hst
  exact (tickState_disabled_hold s.params (zn := { par := (s.zone z).par, st := st }) hen
    (by rwa [hstate])).trans hst

end Sys2Proof.Machine
end

section
/-! SUPPORT. The period of the colour cycle (R201, R208): where a drift-free cycle stands after each TICK. -/

namespace Sys2Proof.Machine

/-- A run of CCRESET and `n` TICKs completes and applies `zoneTick` `n` times to the armed zone (R201). -/
theorem runCommands_ccreset_ticks (n : Nat) {s : State} {z : Byte} (hinv : s.Inv) (hfault : s.status.fault = false)
    (hz : z.toNat < s.params.numZones) (hp : periodOperand s.a[0] ≠ 0) :
    ∃ t, runCommands (.ccreset z :: List.replicate n (.tick z)) s = .next t ∧
      t.zone z =
        { par := armColorCycle (periodOperand s.a[0]) (s.zone z).par
          st := (zoneTick s.params (armColorCycle (periodOperand s.a[0]) (s.zone z).par))^[n]
            { (s.zone z).st with ccIdx := 0 } } ∧
      t.status = s.status := by
  have ⟨_, hlength, _⟩ := hinv
  have hreset := exec_ccreset
    (s := { s with bus := (List.replicate n (Instr.tick z)).map cmdAccess, reply := none }) hz hp
  obtain ⟨t, ht, hzone, hstatus⟩ := runCommands_ticks n (exec_inv hreset hinv) hfault hz
  rw [zone_setZone_same (hlength.symm ▸ hz)] at hzone
  exact ⟨t, (runCommands_cons rfl hfault hreset).trans ht, hzone, hstatus⟩

/-- Where a drift-free colour cycle stands `n` TICKs after it was armed: the hue is set from the first TICK on. -/
structure CycleAt (zp : ZoneParams) (n : Nat) (st : ZoneState) : Prop where
  drift : st.ccDrift = 0
  idx : st.ccIdx.toNat = n % zp.ccPeriod.toNat
  hue : n ≠ 0 → st.outH.toInt = (st.ccIdx.toNat : Int) * zp.ccSlope.toInt % 2 ^ 27

theorem CycleAt.tick {zp : ZoneParams} {n : Nat} {st : ZoneState} (h : CycleAt zp n st) (hen : zp.ccEn = true)
    (hp : 0 < zp.ccPeriod.toNat) (p : Params) : CycleAt zp (n + 1) (zoneTick p zp st) := by
  obtain ⟨hdrift, hidx, -⟩ := h
  obtain ⟨hcolor, hhue⟩ := tickState_color p { par := zp, st := st }
  have hlt : st.ccIdx.toNat < zp.ccPeriod.toNat := hidx ▸ Nat.mod_lt _ hp
  have hruns : driftRuns st.ccDrift = 1 := by rw [hdrift, driftRuns_zero]
  obtain ⟨hidx', hhue'⟩ := tickColor_of_lt hen hlt hruns one_ne_zero
  refine ⟨?_, ?_, fun _ => ?_⟩
  · rw [zoneTick, tickState_ccDrift, hdrift, driftAfter_zero]
  · rw [zoneTick, hcolor, hidx', hidx, Nat.mod_add_mod]
  · rw [zoneTick, hhue, hcolor, hhue']

theorem CycleAt.ticks {zp : ZoneParams} {st : ZoneState} (h : CycleAt zp 0 st) (hen : zp.ccEn = true)
    (hp : 0 < zp.ccPeriod.toNat) (p : Params) (n : Nat) : CycleAt zp n ((zoneTick p zp)^[n] st) := by
  induction n with
  | zero => exact h
  | succ n ih => rw [Function.iterate_succ_apply']; exact ih.tick hen hp p

/-- Below the period, index times slope stays below ONE (R208). -/
theorem idx_mul_slope_lt {i p : Nat} (h : i < p) : i * (2 ^ 27 / p) < 2 ^ 27 := by
  rcases Nat.eq_zero_or_pos (2 ^ 27 / p) with hq | hq
  · rw [hq, Nat.mul_zero]; decide
  · exact (Nat.mul_lt_mul_of_pos_right h hq).trans_le (Nat.mul_div_le _ _)

theorem toNat_of_toInt_eq_natCast {w : Word} {n : Nat} (h : w.toInt = n) : w.toNat = n := by
  have hlt := w.isLt
  rw [BitVec.toInt_eq_toNat_cond] at h
  split at h <;> omega

/-- The hue of an armed cycle needs no reduction (R208). -/
theorem CycleAt.outH_toNat {zp : ZoneParams} {n : Nat} {st : ZoneState} (h : CycleAt zp n st) (hn : n ≠ 0)
    (hp : 0 < zp.ccPeriod.toNat) (hslope : zp.ccSlope = slopeOf zp.ccPeriod.toNat) :
    st.outH.toNat = n % zp.ccPeriod.toNat * (2 ^ 27 / zp.ccPeriod.toNat) := by
  have hlt := idx_mul_slope_lt (Nat.mod_lt n hp)
  apply toNat_of_toInt_eq_natCast
  rw [h.hue hn, h.idx, hslope, slopeOf_toInt, one_ediv_natCast, ← Nat.cast_mul]
  exact Int.emod_eq_of_lt (Int.natCast_nonneg _) (by exact_mod_cast hlt)

/-- Settles O48: CCRESET arms the cycle at index 0, and each TICK counts on. -/
theorem colourCycleHasItsPeriod : Obligations.ColourCycleHasItsPeriod := by
  rintro s z p n hinv hfault hz rfl hp hn hdrift
  obtain ⟨t, ht, hzone, hstatus⟩ :=
    runCommands_ccreset_ticks n hinv hfault hz (mt (periodOperand_eq_zero_iff _).mp hp)
  have hperiod : (armColorCycle (periodOperand s.a[0]) (s.zone z).par).ccPeriod.toNat = s.a[0].toNat % 2 ^ 32 :=
    periodOperand_toNat _
  have hpos : 0 < (armColorCycle (periodOperand s.a[0]) (s.zone z).par).ccPeriod.toNat := by omega
  have hstart : CycleAt (armColorCycle (periodOperand s.a[0]) (s.zone z).par) 0
      { (s.zone z).st with ccIdx := 0 } := ⟨hdrift, (Nat.zero_mod _).symm, fun h => absurd rfl h⟩
  have hcycle := hstart.ticks rfl hpos s.params n
  refine ⟨t, ht, ?_, ?_, by rw [hstatus, hfault]⟩ <;> rw [hzone, ← hperiod]
  · exact hcycle.idx
  · exact hcycle.outH_toNat hn hpos rfl

end Sys2Proof.Machine
end

section
/-! SUPPORT. The period of the breathing cycle (R219 (b)): the drift-free TICKs from one phase of the transition
table to the next, added up over one cycle. -/

namespace Sys2Proof.Machine

/-! ### Phases and the TICKs between them -/

/-- The breathing machine stands in state `bs` at ramp position `seg` and hold tick `tick`, without drift. -/
structure AtPhase (bs : BrState) (seg tick : Nat) (st : ZoneState) : Prop where
  brState : st.brState = bs
  brSeg : st.brSeg.toNat = seg
  brTick : st.brTick.toNat = tick
  drift : st.brDrift = 0

/-- From every record of `P`, `n` applications of `f` give a record of `Q`. -/
def Leads (f : ZoneState → ZoneState) (n : Nat) (P Q : ZoneState → Prop) : Prop := ∀ st, P st → Q (f^[n] st)

theorem Leads.trans {f : ZoneState → ZoneState} {m n : Nat} {P Q R : ZoneState → Prop} (h : Leads f m P Q)
    (h' : Leads f n Q R) : Leads f (m + n) P R := by
  intro st hst
  rw [Nat.add_comm, Function.iterate_add_apply]
  exact h' _ (h st hst)

/-- A chain of single steps. -/
theorem Leads.chain {f : ZoneState → ZoneState} {P : Nat → ZoneState → Prop} {n : Nat}
    (h : ∀ k < n, Leads f 1 (P k) (P (k + 1))) : Leads f n (P 0) (P n) := by
  induction n with
  | zero => exact fun _ hst => hst
  | succ n ih => exact (ih fun k hk => h k (hk.trans n.lt_succ_self)).trans (h n n.lt_succ_self)

/-- One TICK leads to the phase of the table's row. -/
theorem leads_row {p : Params} {zp : ZoneParams} {bs bs' : BrState} {seg seg' tick tick' : Nat} {l : Option Nat}
    (h : ∀ st, AtPhase bs seg tick st → breathTable zp st = ⟨bs', seg', tick', l⟩) :
    Leads (zoneTick p zp) 1 (AtPhase bs seg tick) (AtPhase bs' seg' tick') := by
  intro st hst
  obtain ⟨hstate, hseg, htick, -⟩ := tickState_follows p (zn := { par := zp, st := st }) hst.drift
  rw [h st hst] at hstate hseg htick
  refine ⟨hstate, hseg, htick, ?_⟩
  exact (tickState_brDrift p _).trans (by rw [hst.drift, driftAfter_zero])

/-! ### The rows of one cycle -/

section Rows

variable (p : Params) {zp : ZoneParams}

theorem leads_rampUp {n tick : Nat} (h : n + 1 < zp.brRamp.toNat) :
    Leads (zoneTick p zp) 1 (AtPhase .rampUp n tick) (AtPhase .rampUp (n + 1) tick) := by
  refine leads_row (l := some (n + 1)) fun st ⟨hstate, hseg, htick, _⟩ => ?_
  have hup : tableUp zp st = n + 1 := by rw [tableUp, hseg]; omega
  simp only [breathTable, hstate, hup, htick, if_pos h]

theorem leads_rampUp_topSeg {n tick : Nat} (h : n + 1 = zp.brRamp.toNat) (htop : zp.brTop ≠ 0) :
    Leads (zoneTick p zp) 1 (AtPhase .rampUp n tick) (AtPhase .topSeg zp.brRamp.toNat 0) := by
  refine leads_row (l := some zp.brRamp.toNat) fun st ⟨hstate, hseg, _, _⟩ => ?_
  have hup : tableUp zp st = zp.brRamp.toNat := by rw [tableUp, hseg]; omega
  simp only [breathTable, hstate, hup, if_neg (lt_irrefl _), if_pos htop]

theorem leads_rampUp_rampDown {n tick : Nat} (h : n + 1 = zp.brRamp.toNat) (htop : zp.brTop = 0) :
    Leads (zoneTick p zp) 1 (AtPhase .rampUp n tick) (AtPhase .rampDown zp.brRamp.toNat tick) := by
  refine leads_row (l := some zp.brRamp.toNat) fun st ⟨hstate, hseg, htick, _⟩ => ?_
  have hup : tableUp zp st = zp.brRamp.toNat := by rw [tableUp, hseg]; omega
  simp only [breathTable, hstate, hup, htick, if_neg (lt_irrefl _), if_neg (not_not_intro htop)]

theorem leads_topSeg {seg n : Nat} (hen : zp.brEn = true) (h : n + 1 < zp.brTop.toNat) :
    Leads (zoneTick p zp) 1 (AtPhase .topSeg seg n) (AtPhase .topSeg seg (n + 1)) := by
  refine leads_row (l := some zp.brRamp.toNat) fun st ⟨hstate, hseg, htick, _⟩ => ?_
  simp only [breathTable, hstate, hseg, htick, hen, Bool.true_eq_false, ↓reduceIte, if_pos h]

theorem leads_topSeg_rampDown {seg n : Nat} (hen : zp.brEn = true) (h : zp.brTop.toNat ≤ n + 1) :
    Leads (zoneTick p zp) 1 (AtPhase .topSeg seg n) (AtPhase .rampDown zp.brRamp.toNat 0) := by
  refine leads_row (l := some zp.brRamp.toNat) fun st ⟨hstate, hseg, htick, _⟩ => ?_
  simp only [breathTable, hstate, htick, hen, Bool.true_eq_false, ↓reduceIte, if_neg (Nat.not_lt.mpr h)]

theorem leads_rampDown {n tick : Nat} (h : n + 2 ≤ zp.brRamp.toNat) :
    Leads (zoneTick p zp) 1 (AtPhase .rampDown (n + 2) tick) (AtPhase .rampDown (n + 1) tick) := by
  refine leads_row (l := some (n + 1)) fun st ⟨hstate, hseg, htick, _⟩ => ?_
  have hdown : tableDown zp st = n + 1 := by rw [tableDown, hseg]; omega
  simp only [breathTable, hstate, hdown, htick, if_pos (Nat.succ_pos n)]

theorem leads_rampDown_bottomSeg {tick : Nat} (hbot : zp.brBot ≠ 0) :
    Leads (zoneTick p zp) 1 (AtPhase .rampDown 1 tick) (AtPhase .bottomSeg 0 0) := by
  refine leads_row (l := some 0) fun st ⟨hstate, hseg, _, _⟩ => ?_
  have hdown : tableDown zp st = 0 := by rw [tableDown, hseg]; omega
  simp only [breathTable, hstate, hdown, if_neg (lt_irrefl 0), if_pos hbot]

theorem leads_rampDown_rampUp {tick : Nat} (hbot : zp.brBot = 0) :
    Leads (zoneTick p zp) 1 (AtPhase .rampDown 1 tick) (AtPhase .rampUp 0 0) := by
  refine leads_row (l := some 0) fun st ⟨hstate, hseg, _, _⟩ => ?_
  have hdown : tableDown zp st = 0 := by rw [tableDown, hseg]; omega
  simp only [breathTable, hstate, hdown, if_neg (lt_irrefl 0), if_neg (not_not_intro hbot)]

theorem leads_bottomSeg {seg n : Nat} (hen : zp.brEn = true) (h : n + 1 < zp.brBot.toNat) :
    Leads (zoneTick p zp) 1 (AtPhase .bottomSeg seg n) (AtPhase .bottomSeg seg (n + 1)) := by
  refine leads_row (l := some 0) fun st ⟨hstate, hseg, htick, _⟩ => ?_
  simp only [breathTable, hstate, hseg, htick, hen, Bool.true_eq_false, ↓reduceIte, if_pos h]

theorem leads_bottomSeg_rampUp {seg n : Nat} (hen : zp.brEn = true) (h : zp.brBot.toNat ≤ n + 1) :
    Leads (zoneTick p zp) 1 (AtPhase .bottomSeg seg n) (AtPhase .rampUp 0 0) := by
  refine leads_row (l := some 0) fun st ⟨hstate, hseg, htick, _⟩ => ?_
  simp only [breathTable, hstate, htick, hen, Bool.true_eq_false, ↓reduceIte, if_neg (Nat.not_lt.mpr h)]

end Rows

/-! ### One cycle -/

/-- The ramp up but for its last TICK (R211). -/
theorem leads_rise (p : Params) {zp : ZoneParams} {m : Nat} (hm : zp.brRamp.toNat = m + 1) :
    Leads (zoneTick p zp) m (AtPhase .rampUp 0 0) (AtPhase .rampUp m 0) :=
  Leads.chain (P := fun n => AtPhase .rampUp n 0) fun _ hk => leads_rampUp p (by omega)

/-- The ramp down but for its last TICK (R213). -/
theorem leads_fall (p : Params) {zp : ZoneParams} {m : Nat} (hm : zp.brRamp.toNat = m + 1) :
    Leads (zoneTick p zp) m (AtPhase .rampDown (m + 1) 0) (AtPhase .rampDown 1 0) := by
  have hchain : Leads (zoneTick p zp) m (AtPhase .rampDown (m - 0 + 1) 0) (AtPhase .rampDown (m - m + 1) 0) :=
    Leads.chain (P := fun k => AtPhase .rampDown (m - k + 1) 0) fun k hk => by
      obtain ⟨j, rfl⟩ := Nat.exists_eq_add_of_lt hk
      rw [show k + j + 1 - k + 1 = j + 2 by omega, show k + j + 1 - (k + 1) + 1 = j + 1 by omega]
      exact leads_rampDown p (by omega)
  rwa [Nat.sub_zero, Nat.sub_self] at hchain

/-- From the foot of the ramp to the top of the way down: the ramp up and the top hold. -/
theorem leads_foot_crest (p : Params) {zp : ZoneParams} (hen : zp.brEn = true) (hramp : zp.brRamp.toNat ≠ 0) :
    Leads (zoneTick p zp) (zp.brRamp.toNat + zp.brTop.toNat) (AtPhase .rampUp 0 0)
      (AtPhase .rampDown zp.brRamp.toNat 0) := by
  obtain ⟨m, hm⟩ := Nat.exists_eq_succ_of_ne_zero hramp
  by_cases htop : zp.brTop = 0
  · have hlength : zp.brRamp.toNat + zp.brTop.toNat = m + 1 := by rw [htop, hm]; rfl
    rw [hlength]
    exact (leads_rise p hm).trans (leads_rampUp_rampDown p hm.symm htop)
  · obtain ⟨k, hk⟩ := Nat.exists_eq_succ_of_ne_zero ((toNat_pos_iff_ne_zero _).mpr htop).ne'
    have hhold : Leads (zoneTick p zp) k (AtPhase .topSeg zp.brRamp.toNat 0) (AtPhase .topSeg zp.brRamp.toNat k) :=
      Leads.chain (P := fun n => AtPhase .topSeg zp.brRamp.toNat n) fun n hn => leads_topSeg p hen (by omega)
    have hlength : zp.brRamp.toNat + zp.brTop.toNat = m + 1 + (k + 1) := by rw [hm, hk]
    rw [hlength]
    exact ((leads_rise p hm).trans (leads_rampUp_topSeg p hm.symm htop)).trans
      (hhold.trans (leads_topSeg_rampDown p hen hk.le))

/-- From the top of the way down to the foot of the ramp: the ramp down and the bottom hold. -/
theorem leads_crest_foot (p : Params) {zp : ZoneParams} (hen : zp.brEn = true) (hramp : zp.brRamp.toNat ≠ 0) :
    Leads (zoneTick p zp) (zp.brRamp.toNat + zp.brBot.toNat) (AtPhase .rampDown zp.brRamp.toNat 0)
      (AtPhase .rampUp 0 0) := by
  obtain ⟨m, hm⟩ := Nat.exists_eq_succ_of_ne_zero hramp
  by_cases hbot : zp.brBot = 0
  · have hlength : zp.brRamp.toNat + zp.brBot.toNat = m + 1 := by rw [hbot, hm]; rfl
    rw [hlength, hm]
    exact (leads_fall p hm).trans (leads_rampDown_rampUp p hbot)
  · obtain ⟨k, hk⟩ := Nat.exists_eq_succ_of_ne_zero ((toNat_pos_iff_ne_zero _).mpr hbot).ne'
    have hhold : Leads (zoneTick p zp) k (AtPhase .bottomSeg 0 0) (AtPhase .bottomSeg 0 k) :=
      Leads.chain (P := fun n => AtPhase .bottomSeg 0 n) fun n hn => leads_bottomSeg p hen (by omega)
    have hlength : zp.brRamp.toNat + zp.brBot.toNat = m + 1 + (k + 1) := by rw [hm, hk]
    rw [hlength, hm]
    exact ((leads_fall p hm).trans (leads_rampDown_bottomSeg p hbot)).trans
      (hhold.trans (leads_bottomSeg_rampUp p hen hk.le))

theorem breathPhase_foot_iff (st : ZoneState) :
    breathPhase st = (.rampUp, 0, 0) ↔ st.brState = .rampUp ∧ st.brSeg.toNat = 0 ∧ st.brTick.toNat = 0 := by
  have hzero (w : Word) : w.toNat = 0 ↔ w = 0 := BitVec.toNat_inj (y := (0 : Word))
  rw [hzero, hzero, breathPhase, Prod.mk.injEq, Prod.mk.injEq]

/-- Settles O53: up and down, with the holds between. -/
theorem breathingRepeatsAfterItsPeriod : Obligations.BreathingRepeatsAfterItsPeriod := by
  rintro s z zp hinv hfault hz rfl hen hramp hdrift hphase
  obtain ⟨t, ht, hzone, -⟩ := runCommands_ticks
    (2 * (s.zone z).par.brRamp.toNat + (s.zone z).par.brTop.toNat + (s.zone z).par.brBot.toNat) hinv hfault hz
  obtain ⟨hstate, hseg, htick⟩ := (breathPhase_foot_iff _).mp hphase
  have hramp' := ((toNat_pos_iff_ne_zero _).mpr hramp).ne'
  have hcycle := (leads_foot_crest s.params hen hramp').trans (leads_crest_foot s.params hen hramp')
  have hlength : (s.zone z).par.brRamp.toNat + (s.zone z).par.brTop.toNat +
      ((s.zone z).par.brRamp.toNat + (s.zone z).par.brBot.toNat) =
      2 * (s.zone z).par.brRamp.toNat + (s.zone z).par.brTop.toNat + (s.zone z).par.brBot.toNat := by omega
  rw [hlength] at hcycle
  obtain ⟨hstate', hseg', htick', -⟩ := hcycle _ ⟨hstate, hseg, htick, hdrift⟩
  refine ⟨t, ht, ?_, ?_⟩ <;> rw [hzone]
  exact (breathPhase_foot_iff _).mpr ⟨hstate', hseg', htick'⟩

end Sys2Proof.Machine
end

section
/-! SUPPORT. The record images of R261 and R262: their packed words as numbers, and that reading an image gives back
the record it was made of, and the image of a record read from RB gives back the words of RB it was read from. -/

namespace Sys2Proof.Machine

/-! ### The packed words as numbers -/

/-- RB2 of the PARAMS image as a number (R261). -/
theorem flagWord_toNat (zp : ZoneParams) :
    (flagWord zp).toNat = zp.ccEn.toNat + 2 * zp.brEn.toNat + 4 * zp.brTopEn.toNat + 8 * zp.brBotEn.toNat +
      16 * zp.brCubicEn.toNat := by
  simp only [flagWord, append_toNat, BitVec.toNat_ofNat, BitVec.toNat_ofBool, Nat.zero_mod]
  ring

theorem flagWord_eq_ofNat (zp : ZoneParams) :
    flagWord zp = BitVec.ofNat 32 (zp.ccEn.toNat + 2 * zp.brEn.toNat + 4 * zp.brTopEn.toNat +
      8 * zp.brBotEn.toNat + 16 * zp.brCubicEn.toNat) := by
  rw [← flagWord_toNat, BitVec.ofNat_toNat, BitVec.setWidth_eq]

/-- A flag of a word is a binary digit of its number. -/
theorem getLsbD_eq_decide (w : Word) (i : Nat) : w.getLsbD i = decide (w.toNat / 2 ^ i % 2 = 1) :=
  Nat.testBit_eq_decide_div_mod_eq

/-- Two channels in one word, as RB10 of the STATE image holds them (R262). -/
theorem append_halves_eq_ofNat (hi lo : Half) :
    hi ++ lo = BitVec.ofNat 32 (lo.toNat + 2 ^ 16 * hi.toNat) := by
  have hsum : (hi ++ lo).toNat = lo.toNat + 2 ^ 16 * hi.toNat := by
    rw [append_toNat, Nat.mul_comm, Nat.add_comm]
  rw [← hsum, BitVec.ofNat_toNat, BitVec.setWidth_eq]

/-- One channel in a word, as RB11 of the STATE image holds it (R262). -/
theorem zero_append_half_eq_ofNat (lo : Half) : 0#16 ++ lo = BitVec.ofNat 32 lo.toNat :=
  append_halves_eq_ofNat 0 lo

theorem lowHalf_eq_ofNat (w : Word) : w.extractLsb' 0 16 = BitVec.ofNat 16 (w.toNat % 2 ^ 16) := by
  apply BitVec.eq_of_toNat_eq
  rw [BitVec.extractLsb'_toNat, BitVec.toNat_ofNat, Nat.mod_mod, Nat.shiftRight_zero]

theorem highHalf_eq_ofNat (w : Word) : w.extractLsb' 16 16 = BitVec.ofNat 16 (w.toNat / 2 ^ 16) := by
  apply BitVec.eq_of_toNat_eq
  rw [BitVec.extractLsb'_toNat, BitVec.toNat_ofNat, Nat.shiftRight_eq_div_pow]

/-! ### The images with their packed words given

The words stand as variables: a rewrite inside the image would compare two forms of one word by evaluating both. -/

theorem paramsImage_eq {zp : ZoneParams} {flags : Word} (hflags : flagWord zp = flags) :
    paramsImage zp = #v[zp.ccPeriod, zp.ccSlope, flags, zp.brPeriod, zp.brRamp, zp.brTop, zp.brBot, zp.brSlope,
      0, 0, 0, 0, 0, 0, 0, 0] := by
  subst hflags
  rfl

theorem stateImage_eq {st : ZoneState} {code greenRed blue : Word} (hcode : brStateCode st.brState = code)
    (hgreenRed : st.outRgb.g ++ st.outRgb.r = greenRed) (hblue : 0#16 ++ st.outRgb.b = blue) :
    stateImage st = #v[st.ccIdx, st.brTick, st.brSeg, code, st.inH, st.inS, st.inV, st.outH, st.outS, st.outV,
      greenRed, blue, st.ccDrift, st.brDrift, 0, 0] := by
  subst hcode hgreenRed hblue
  rfl

/-! ### From a record to its image and back (R267 (a)) -/

theorem flagWord_getLsbD (zp : ZoneParams) :
    (flagWord zp).getLsbD 0 = zp.ccEn ∧ (flagWord zp).getLsbD 1 = zp.brEn ∧
      (flagWord zp).getLsbD 2 = zp.brTopEn ∧ (flagWord zp).getLsbD 3 = zp.brBotEn ∧
      (flagWord zp).getLsbD 4 = zp.brCubicEn := by
  simp only [flagWord, BitVec.getLsbD_append]
  simp

theorem paramsOfImage_paramsImage (zp : ZoneParams) : paramsOfImage (paramsImage zp) = zp := by
  obtain ⟨hcc, hbr, htop, hbot, hcubic⟩ := flagWord_getLsbD zp
  have hflags : paramsOfImage (paramsImage zp) = { zp with
      ccEn := (flagWord zp).getLsbD 0
      brEn := (flagWord zp).getLsbD 1
      brTopEn := (flagWord zp).getLsbD 2
      brBotEn := (flagWord zp).getLsbD 3
      brCubicEn := (flagWord zp).getLsbD 4 } := rfl
  rw [hflags, hcc, hbr, htop, hbot, hcubic]

theorem stateOfImage_stateImage (st : ZoneState) : stateOfImage (stateImage st) st.brState = st := by
  have hcolour : stateOfImage (stateImage st) st.brState = { st with
      outRgb :=
        { r := (st.outRgb.g ++ st.outRgb.r).extractLsb' 0 16
          g := (st.outRgb.g ++ st.outRgb.r).extractLsb' 16 16
          b := (0#16 ++ st.outRgb.b).extractLsb' 0 16 } } := rfl
  rw [hcolour, BitVec.extractLsb'_append_eq_right, BitVec.extractLsb'_append_eq_left,
    BitVec.extractLsb'_append_eq_right]

/-! ### From the words of RB to a record and back (R267 (b)) -/

/-- The five flag bits survive, the unused bits of RB2 are cleared. -/
theorem flagWord_paramsOfImage (rb : Vector Word 16) :
    flagWord (paramsOfImage rb) = BitVec.ofNat 32 (rb[2].toNat % 2 ^ 5) := by
  rw [flagWord_eq_ofNat]
  congr 1
  simp only [paramsOfImage, ← BitVec.testBit_toNat, Nat.toNat_testBit]
  omega

theorem paramsImage_paramsOfImage (rb : Vector Word 16) (k : Fin 16) :
    (paramsImage (paramsOfImage rb))[k] =
      if k.val = 2 then BitVec.ofNat 32 (rb[2].toNat % 2 ^ 5) else if k.val < 8 then rb[k] else 0 := by
  rw [paramsImage_eq (flagWord_paramsOfImage rb)]
  generalize BitVec.ofNat 32 (rb[2].toNat % 2 ^ 5) = flags
  fin_cases k <;> rfl

/-- The unused upper half of RB11 is cleared. -/
theorem zero_append_lowHalf (w : Word) : 0#16 ++ w.extractLsb' 0 16 = BitVec.ofNat 32 (w.toNat % 2 ^ 16) := by
  rw [zero_append_half_eq_ofNat, BitVec.extractLsb'_toNat, Nat.shiftRight_zero]

theorem stateImage_stateOfImage {rb : Vector Word 16} {bs : BrState} (h : brStateCode bs = rb[3]) (k : Fin 16) :
    (stateImage (stateOfImage rb bs))[k] =
      if k.val = 11 then BitVec.ofNat 32 (rb[11].toNat % 2 ^ 16) else if k.val < 14 then rb[k] else 0 := by
  have hgreenRed : rb[10].extractLsb' 16 16 ++ rb[10].extractLsb' 0 16 = rb[10] :=
    BitVec.extractLsb'_append_extractLsb'
  rw [stateImage_eq (st := stateOfImage rb bs) h hgreenRed (zero_append_lowHalf rb[11])]
  generalize BitVec.ofNat 32 (rb[11].toNat % 2 ^ 16) = blue
  fin_cases k <;> rfl

end Sys2Proof.Machine
end

section
/-! SUPPORT. The record accessors GETPAR, SETPAR, GETST and SETST (R263 to R266): what each does for a zone of the
store, and the two-command runs of R267 through the window. -/

namespace Sys2Proof.Machine

/-! ### The arms of `exec` -/

section Arm

variable {s : State} {z : Byte} {bs : BrState} (hz : z.toNat < s.params.numZones)

include hz

theorem exec_getpar : exec (.getpar z) s = .next (s.setRecordBuffer (paramsImage (s.zone z).par)) :=
  checkZone_valid hz _ _

theorem exec_setpar : exec (.setpar z) s = .next (s.setZonePar z (paramsOfImage s.rb)) :=
  checkZone_valid hz _ _

theorem exec_getst : exec (.getst z) s = .next (s.setRecordBuffer (stateImage (s.zone z).st)) :=
  checkZone_valid hz _ _

/-- SETST when RB3 names a breathing state (R266). -/
theorem exec_setst (hbs : brStateCode bs = s.rb[3]) :
    exec (.setst z) s = .next (s.setZoneSt z (stateOfImage s.rb bs)) := by
  have hcode : brStateOf s.rb[3] = some bs := by rw [← hbs, brStateOf_code]
  refine (checkZone_valid hz _ _).trans ?_
  rw [hcode]

/-- SETST when RB3 names none (R266). -/
theorem exec_setst_badRecord (hcode : 5 < s.rb[3].toNat) :
    exec (.setst z) s = .next (raiseBy .badRecord (.setst z) s) := by
  refine (checkZone_valid hz _ _).trans ?_
  rw [brStateOf_none hcode]

end Arm

/-! ### One zone's records, set and left -/

section Store

variable {s : State} {z : Byte} (hz : z.toNat < s.zones.length)

include hz

theorem setZonePar_self : s.setZonePar z (s.zone z).par = s := setZone_self hz

theorem setZoneSt_self : s.setZoneSt z (s.zone z).st = s := setZone_self hz

theorem zone_setZonePar_same (zp : ZoneParams) : ((s.setZonePar z zp).zone z).par = zp := by
  rw [State.setZonePar, zone_setZone_same hz]

theorem zone_setZoneSt_same (st : ZoneState) : ((s.setZoneSt z st).zone z).st = st := by
  rw [State.setZoneSt, zone_setZone_same hz]

end Store

/-! ### Runs of two commands -/

theorem runCommands_nil (s : State) : runCommands [] s = .next { s with bus := [] } := rfl

/-- Two commands through the window, the first recording no fault (R24, R55, R59). -/
theorem runCommands_pair {i j : Instr} {s t u : State} (hi : i.wellFormed = true) (hj : j.wellFormed = true)
    (hs : s.status.fault = false) (hst : exec i { s with bus := [cmdAccess j], reply := none } = .next t)
    (ht : t.status.fault = false) (htu : exec j { t with bus := [], reply := none } = .next u) :
    runCommands [i, j] s = .next u := by
  obtain ⟨-, -, hbus, -⟩ := exec_frame htu
  rw [runCommands_cons (is := [j]) hi hs hst, runCommands_cons (is := []) hj ht htu, runCommands_nil,
    ← show u.bus = [] from hbus]

/-! ### The obligations -/

/-- Settles O56: the image of the zone's record, with its packed words as numbers. -/
theorem getWritesTheRecordImage : Obligations.GetWritesTheRecordImage := by
  intro s z zp st hz hzone
  refine ⟨?_, ?_⟩
  · rw [exec_getpar hz, hzone, paramsImage_eq (flagWord_eq_ofNat zp)]
    rfl
  · rw [exec_getst hz, hzone, stateImage_eq rfl (append_halves_eq_ofNat _ _) (zero_append_half_eq_ofNat _)]
    rfl

/-- Settles O57: the flags are the binary digits of RB2. -/
theorem setparStoresTheParamsImage : Obligations.SetparStoresTheParamsImage := by
  intro s z hz
  rw [exec_setpar hz, paramsOfImage]
  simp only [getLsbD_eq_decide, pow_zero, Nat.div_one]
  rfl

/-- Settles O58: RB3 decides between the store and the fault. -/
theorem setstStoresTheStateImage : Obligations.SetstStoresTheStateImage := by
  intro s z hz
  refine ⟨fun bs hbs => ?_, fun hcode hfault => ?_⟩
  · rw [exec_setst hz hbs, stateOfImage, lowHalf_eq_ofNat, highHalf_eq_ofNat, lowHalf_eq_ofNat]
    rfl
  · rw [exec_setst_badRecord hz hcode, raiseBy_eq hfault]

/-- Settles O59: what SET writes is the record GET read. -/
theorem getThenSetChangesNoRecord : Obligations.GetThenSetChangesNoRecord := by
  rintro s z ⟨-, hlength, -⟩ hfault hz
  have hstore : z.toNat < s.zones.length := hlength ▸ hz
  refine ⟨⟨_, runCommands_pair rfl rfl hfault (exec_getpar hz) hfault (exec_setpar hz), ?_, rfl⟩,
    ⟨_, runCommands_pair rfl rfl hfault (exec_getst hz) hfault (exec_setst hz rfl), ?_, rfl⟩⟩
  · rw [State.setRecordBuffer_rb, paramsOfImage_paramsImage]
    exact (State.setZonePar_zones _ _ _).trans (congrArg State.zones (setZonePar_self hstore))
  · rw [State.setRecordBuffer_rb, stateOfImage_stateImage]
    exact (State.setZoneSt_zones _ _ _).trans (congrArg State.zones (setZoneSt_self hstore))

/-- Settles O60: GET reads the record SET wrote, and only the unused bits and words of the image are lost. -/
theorem setThenGetReturnsTheImage : Obligations.SetThenGetReturnsTheImage := by
  rintro s z ⟨-, hlength, -⟩ hfault hz
  have hstore : z.toNat < s.zones.length := hlength ▸ hz
  refine ⟨?_, fun hcode => ?_⟩
  · refine ⟨_, runCommands_pair rfl rfl hfault (exec_setpar hz) hfault (exec_getpar hz), rfl, fun k => ?_⟩
    have hrecord := zone_setZonePar_same hstore (paramsOfImage s.rb)
    exact (congrArg (fun zp => (paramsImage zp)[k]) hrecord).trans (paramsImage_paramsOfImage s.rb k)
  · obtain ⟨bs, -, hbs⟩ := brStateOf_some hcode
    refine ⟨_, runCommands_pair rfl rfl hfault (exec_setst hz hbs) hfault (exec_getst hz), rfl, fun k => ?_⟩
    have hrecord := zone_setZoneSt_same hstore (stateOfImage s.rb bs)
    exact (congrArg (fun st => (stateImage st)[k]) hrecord).trans (stateImage_stateOfImage hbs k)

end Sys2Proof.Machine
end

section
/-! SUPPORT. Faults (R282 to R289, R296 to R298): a recorded fault refuses every command and stays the first one,
a command's fault is all-or-nothing, and the step stops for nothing but an access outside the window. -/

namespace Sys2Proof.Machine

/-! ### A recorded fault stays (R284, R288, R289) -/

theorem raiseBusError_of_fault {s : State} (h : s.status.fault = true) : raiseBusError s = s :=
  raiseFault_of_fault h _ _ _

theorem writeReg_status_of_fault {s t : State} {d : Word} {r : WindowReg} (hf : s.status.fault = true)
    (h : writeReg s d r = .next t) : t.status = s.status := by
  rcases writeReg_cases s d r with ⟨_, e⟩ | ⟨_, _, _, e⟩ | ⟨_, _, e⟩ | e <;> rw [e] at h
  · rw [performCommand_faulted hf] at h
    cases h; rfl
  all_goals cases h; rfl

theorem hostRead_status_of_fault {s : State} (hf : s.status.fault = true) (size : AccessSize) (off : Nat) :
    (hostRead size off s).status = s.status := by
  unfold hostRead
  split
  · rfl
  · rw [raiseBusError_of_fault hf]

theorem hostWrite_status_of_fault {size : AccessSize} {off : Nat} {d : Word} {s t : State}
    (hf : s.status.fault = true) (h : hostWrite size off d s = .next t) : t.status = s.status := by
  rcases hostWrite_cases size off d s with ⟨_, e⟩ | ⟨_, e⟩ <;> rw [e] at h
  · exact writeReg_status_of_fault (s := { s with reply := none }) hf h
  · rw [raiseBusError_of_fault (s := { s with reply := none }) hf] at h
    cases h; rfl

theorem hostEvent_status_of_fault {e : HostEvent} {s t : State} (hne : e ≠ .reset)
    (hf : s.status.fault = true) (h : hostEvent e s = .next t) : t.status = s.status := by
  rcases hostEvent_cases h with ⟨size, off, _, _, rfl⟩ | ⟨_, _, _, _, _, hw⟩ | ⟨hreset, _⟩
  · exact hostRead_status_of_fault hf size off
  · exact hostWrite_status_of_fault hf hw
  · exact absurd hreset hne

/-! ### Where a host event stops, and what it leaves pending (R50, R59, R297) -/

theorem hostWrite_next (size : AccessSize) (off : Nat) (d : Word) (s : State) :
    ∃ t, hostWrite size off d s = .next t := by
  rcases hostWrite_cases size off d s with ⟨_, e⟩ | ⟨_, e⟩ <;> rw [e]
  · exact writeReg_next _ d _
  · exact ⟨_, rfl⟩

theorem hostEvent_next_of_inWindow {e : HostEvent} (he : e.inWindow = true) (s : State) :
    ∃ t, hostEvent e s = .next t := by
  cases e with
  | read size off => exact ⟨hostRead size off s, if_pos (of_decide_eq_true he)⟩
  | write size off d =>
    obtain ⟨t, ht⟩ := hostWrite_next size off d s
    exact ⟨t, (if_pos (of_decide_eq_true he)).trans ht⟩
  | reset => exact ⟨platformReset s, hostEvent_reset s⟩

theorem hostEvent_of_not_inWindow {e : HostEvent} (he : e.inWindow = false) (s : State) :
    hostEvent e s = .fault .outsideWindow := by
  cases e with
  | read => exact if_neg (of_decide_eq_false he)
  | write => exact if_neg (of_decide_eq_false he)
  | reset => cases he

theorem hostWrite_bus {size : AccessSize} {off : Nat} {d : Word} {s t : State}
    (h : hostWrite size off d s = .next t) : t.bus = s.bus := by
  rcases hostWrite_cases size off d s with ⟨_, e⟩ | ⟨_, e⟩ <;> rw [e] at h
  · obtain ⟨_, hbus, _⟩ := writeReg_keeps h
    exact hbus
  · cases h
    rw [raiseBusError_frame]

/-- No event, whatever fault it records, adds to or withdraws the accesses still pending. -/
theorem hostEvent_bus {e : HostEvent} {s t : State} (h : hostEvent e s = .next t) : t.bus = s.bus := by
  rcases hostEvent_cases h with ⟨size, off, _, _, rfl⟩ | ⟨_, _, _, _, _, hw⟩ | ⟨_, rfl⟩
  · rw [hostRead_frame]
  · exact hostWrite_bus hw
  · exact platformReset_bus s

theorem step_of_bus_nil {s : State} (h : s.bus = []) : step s = .next s := by
  unfold step stepBus
  rw [h]

/-! ### The obligations -/

/-- Settles O8: a faulted unit refuses every command, and a bad access records no second fault. -/
theorem statusKeepsTheFirstFault : Obligations.StatusKeepsTheFirstFault := by
  intro s t e rest hbus hne hfault hstep
  have hevent : hostEvent e { s with bus := rest } = .next t := (stepBus_cons hbus).symm.trans hstep
  exact hostEvent_status_of_fault (s := { s with bus := rest }) hne hfault hevent

/-- Settles O13: the step is the oldest pending event, which stops for its offset alone. -/
theorem stepStopsExactlyOutsideTheWindow : Obligations.StepStopsExactlyOutsideTheWindow := by
  refine fun s => ⟨step_of_bus_nil, fun e rest hbus => ⟨fun hin => ?_, fun hout => ?_⟩⟩
  · obtain ⟨t, ht⟩ := hostEvent_next_of_inWindow hin { s with bus := rest }
    exact ⟨t, (stepBus_cons hbus).trans ht, hostEvent_bus ht⟩
  · exact (stepBus_cons hbus).trans (hostEvent_of_not_inWindow hout _)

/-- Settles O18: an effect keeps STATUS, so the command recorded a fault, and a well-formed one has only the
causes of R282. -/
theorem faultChangesNothingButStatus : Obligations.FaultChangesNothingButStatus := by
  intro i s t hwf hfault hexec hstatus
  rcases exec_cases hexec with ⟨c, rfl, hraise | ⟨_, hill⟩⟩ | heffect
  · exact ⟨c, hraise, raiseBy_eq hfault c i⟩
  · exact absurd hwf (by simp [hill])
  · exact absurd heffect.status hstatus

/-- Settles O7: the store to CMD is refused before its word is decoded. -/
theorem faultedUnitRefusesCommands : Obligations.FaultedUnitRefusesCommands := by
  intro s w rest hbus hfault
  exact (step_cmd hbus).trans (performCommand_faulted (s := { s with bus := rest, reply := none }) hfault w)

end Sys2Proof.Machine
end

section
/-! SUPPORT. Safe runs (R50, R59, R298): a unit whose pending events all lie in the window never stops. -/

namespace Sys2Proof.Machine

theorem safeBus_iff_of_bus_cons {s : State} {e : HostEvent} {rest : List HostEvent} (h : s.bus = e :: rest) :
    s.safeBus = true ↔ e.inWindow = true ∧ rest.all HostEvent.inWindow = true := by
  rw [State.safeBus, h, List.all_cons, Bool.and_eq_true]

/-- A safe unit waits or completes its oldest pending event, and what is left pending is safe (R59, R296). -/
theorem step_next_of_safeBus {s : State} (hsafe : s.safeBus = true) :
    ∃ t, step s = .next t ∧ t.safeBus = true := by
  obtain ⟨hidle, hbusy⟩ := stepStopsExactlyOutsideTheWindow s
  cases hbus : s.bus with
  | nil => exact ⟨s, hidle hbus, hsafe⟩
  | cons e rest =>
    obtain ⟨hin, hrest⟩ := (safeBus_iff_of_bus_cons hbus).mp hsafe
    obtain ⟨hcompletes, -⟩ := hbusy e rest hbus
    obtain ⟨t, hstep, htbus⟩ := hcompletes hin
    exact ⟨t, hstep, by rwa [State.safeBus, htbus]⟩

/-- A predicate under which every step answers, and which every step keeps, holds at the end of every run. -/
theorem core_run_next_of_step_next {M : Host.Core} {P : M.State → Prop}
    (hstep : ∀ s, P s → ∃ t, M.step s = .next t ∧ P t) (n : Nat) {s : M.State} (hs : P s) :
    ∃ t, M.run n s = .next t ∧ P t := by
  induction n generalizing s with
  | zero => exact ⟨s, rfl, hs⟩
  | succ n ih =>
    obtain ⟨t, ht, hPt⟩ := hstep s hs
    rw [core_run_succ ht]
    exact ih hPt

/-- Settles O14, by induction on the number of steps, each of which keeps the pending events safe. -/
theorem safeRunNeverStops : Obligations.SafeRunNeverStops :=
  fun n _ hsafe => core_run_next_of_step_next (M := core) (P := fun s => State.safeBus s = true)
    (fun _ => step_next_of_safeBus) n hsafe

end Sys2Proof.Machine
end
